-- ==== Sys2Proof/Word.lean ====
section
/-! DEFINITION. The plain types every other file uses: words, the 32-bit words of a command, F values as
binary32 bits, the sparse list that holds one address space, and the fields of a descriptor word. -/

namespace Sys2Proof

/-- One 16-bit word of the image, of the frame buffer or of the sensor's registers (spec 00_scope R12). -/
abbrev Word := BitVec 16

/-- One 32-bit word of a command transaction: CW, FDW or OPW (30_encoding R90). -/
abbrev Word32 := BitVec 32

/-- The 32 bits of an IEEE 754 binary32 value, the type of F on every port (00_scope R15). -/
abbrev F32 := BitVec 32

/-- One address space: the elements that differ from what an unlisted index reads as, each with its index,
the indices strictly rising (the canonical form; `Memory.wf`). Spaces are word-indexed: R65, R66; log 13. -/
abbrev Memory (α : Type) := List (Nat × α)

/-- An F value during a computation (00_scope R15). -/
inductive FVal where
  /-- A binary32 value, by its bits. -/
  | num (bits : F32)
  /-- A value of another type that NUM may name, by a code number (log 4). -/
  | coded (code : Nat)
  /-- R16's unspecified F value. -/
  | unspecified
deriving DecidableEq, Repr, Inhabited

/-- A register or array element that holds an F value. -/
inductive FWord where
  /-- The spec does not fix the value: its bits are a free value or a named reset value (log 6, log 12). -/
  | free (bits : F32)
  /-- A binary32 value, by its bits. -/
  | num (bits : F32)
  /-- A value of another type that NUM may name, by a code number (log 4). -/
  | coded (code : Nat)
deriving DecidableEq, Repr, Inhabited

/-- A field of CAL: an exact integer or an F value, as its row's scale mode says (10_state R25). -/
inductive CalVal where
  | int (z : Int)
  | flt (x : FWord)
deriving DecidableEq, Repr, Inhabited

/-- The fields of a descriptor word FDW (30_encoding R92): bit width, start bit, device register address. -/
structure Desc where
  width : BitVec 6
  start : BitVec 4
  addr : Word
deriving DecidableEq, Repr, Inhabited

end Sys2Proof
end

