-- ==== Sys2Proof/Config.lean ====
section
/-! DEFINITION. The implementation parameters (00_scope R9, R10) and the free values. The parameters of R10
are the fields of `Config`, which State carries (log 1); their default values and the numbers R9 fixes are in
Machine/Parameters.lean. A free value is an opaque constant: nothing can be proved of what it is. -/

namespace Sys2Proof

/-- The calibration record CAL (10_state R24): 15 scalars and seven arrays. -/
structure Calibration where
  kVdd : CalVal
  vdd25 : CalVal
  kvPTAT : CalVal
  ktPTAT : CalVal
  vPTAT25 : CalVal
  alphaPTAT : CalVal
  gainEE : CalVal
  tgc : CalVal
  ksTa : CalVal
  emissivityEE : CalVal
  resolutionEE : CalVal
  cpAlpha : CalVal
  cpOffset : CalVal
  cpKv : CalVal
  cpKta : CalVal
  ksTo : Memory CalVal
  ct : Memory CalVal
  alpha : Memory FWord
  /-- offset[0], subpage 0, exact integers (R25, R170). -/
  offset0 : Memory Int
  /-- offset[1], subpage 1. -/
  offset1 : Memory Int
  kta : Memory FWord
  kv : Memory FWord
  /-- brokenPixels[0], an unbounded integer as every integer field (R25). -/
  broken0 : Int
  /-- brokenPixels[1]. -/
  broken1 : Int
deriving DecidableEq, Repr

/-- NUM (R10, R15): the default, binary32 rounded to nearest even, or another numerics record (log 4). -/
inductive Numerics where
  | binary32
  | custom (k : Nat)
deriving DecidableEq, Repr

namespace Config

/-! ## Free values (log 4 to log 6, log 8, log 19, log 21): opaque, without a body -/

/-- The bits of an F value the spec leaves unspecified (R16), one for each count of draws. -/
opaque freeF : Nat → F32

/-- An exact integer of CAL whose value the spec does not state, one for each count of draws (R25; log 19). -/
opaque freeInt : Nat → Int

/-- Whether the transport answers the k-th request with ok, where the state's script gives no answer (R17). -/
opaque busOk : Nat → Bool

/-- Word j of the transport's ok answer to the k-th request, where the state's script does not give it (R17). -/
opaque busWord : Nat → Nat → Word

/-- DEVSEL as some predicate on the image (R163), one for each number. -/
opaque devSelOf : Nat → Memory Word → Bool

/-- F_VDD as some function of the raw supply count, resram and CAL (R223). -/
opaque vddOf : Nat → Int → Nat → Calibration → FVal

/-- F_TA as some function of ptat, ptatart, vdd and CAL (R224). -/
opaque taOf : Nat → Int → Int → FVal → Calibration → FVal

/-- F_CPOFF as some function of ta, vdd and CAL (R227). -/
opaque cpOffOf : Nat → FVal → FVal → Calibration → FVal

/-- F_PIXOFF as some function of the pixel, the subpage, ta, vdd and CAL (R228). -/
opaque pixOffOf : Nat → Nat → Bool → FVal → FVal → Calibration → FVal

/-- F_SX as some function of ac, ir, tar and k1 (R231). -/
opaque sxOf : Nat → FVal → FVal → FVal → FVal → FVal

/-- F_DEN2 as some function of ac, the range, to1 and CAL (R235). -/
opaque den2Of : Nat → FVal → Nat → FVal → Calibration → FVal

/-- F_ACORR as some function of the range and CAL (R236). -/
opaque acorrOf : Nat → Nat → Calibration → FVal

/-! ### A NUM other than binary32 (R10, R15): its operators as some functions, one of each for each number (log 4) -/

opaque numAdd : Nat → FVal → FVal → FVal
opaque numSub : Nat → FVal → FVal → FVal
opaque numMul : Nat → FVal → FVal → FVal
opaque numDiv : Nat → FVal → FVal → FVal
opaque numRoot4 : Nat → FVal → FVal

/-- A divisor is zero, so that the quotient has no real-number value (R16). -/
opaque numIsZero : Nat → FVal → Bool

/-- A radicand is negative, so that the root has no real-number value (R16). -/
opaque numIsNegative : Nat → FVal → Bool

/-- i2f. -/
opaque numOfInt : Nat → Int → FVal

/-- pow2. -/
opaque numPow2 : Nat → Int → FVal

/-- The decimal literal n / d. -/
opaque numLiteral : Nat → Nat → Nat → FVal

/-- x < y. -/
opaque numLt : Nat → FVal → FVal → Bool

/-- x < z for an integer z. -/
opaque numLtInt : Nat → FVal → Int → Bool

/-- |x| > |y|. -/
opaque numAbsGt : Nat → FVal → FVal → Bool

/-- The binary32 value a port shows for a value of NUM's type with this code (R15). -/
opaque numPort : Numerics → Nat → F32

end Config

/-! ## The parameters without a value in the document (R10) -/

/-- Which function a sub-formula is: the default the spec prints (from general knowledge), or another one (log 5). -/
inductive Formula where
  | printed
  | custom (k : Nat)
deriving DecidableEq, Repr

/-- DEVSEL (R163): bits of one image word tested (the default's shape), always true, or another predicate (log 21). -/
inductive DevSel where
  | anyBitSet (index : Nat) (mask : Word)
  | always
  | custom (k : Nat)
deriving DecidableEq, Repr

/-- The rows of FDMAP (R161). ct has rows 5..7; offPix false is subpage 0, offPix true subpage 1. The last four are
the default table's auxiliary rows. -/
inductive RowName where
  | kVdd | vdd25 | kvPTAT | ktPTAT | vPTAT25 | alphaPTAT | gainEE | tgc | ksTa | emissivityEE | resolutionEE
  | cpAlpha | cpOffset | cpKv | cpKta
  | ksTo (k : Nat)
  | ct (k : Nat)
  | aexp (g : Nat)
  | amax (g : Nat)
  | apix (p : Nat)
  | ktaAvg | ktaScale1 | ktaScale2
  | ktaDelta (p : Nat)
  | kvAvg | kvScale1 | kvScale2
  | kvDelta (p : Nat)
  | offScale | offRef
  | offPix (s : Bool) (p : Nat)
  | ksToScale | cpAlphaScale | cpKtaScale | cpKvScale
deriving DecidableEq, Repr

/-- The scale mode of a row (R161). -/
inductive ScaleMode where
  | none
  | mul
  | div
deriving DecidableEq, Repr

/-- The exponent of a row (R161): a constant, or another row's field plus a bias. -/
inductive ExpSource where
  | const (e : Int)
  | ofRow (row : RowName) (bias : Int)
deriving DecidableEq, Repr

/-- One row of FDMAP (R161). -/
structure FdRow where
  hi : Desc
  lo : Option Desc
  signed : Bool
  mode : ScaleMode
  exp : ExpSource
deriving DecidableEq, Repr

/-- One step of CFG_SEQ, `RMW(reg, andmask, orvalue)` (R266). -/
structure Rmw where
  reg : Word
  andMask : Word
  orValue : Word
deriving DecidableEq, Repr

/-- The configuration record (R10). No command writes it. The indices R10 bounds are held as offsets of bounded
type: IDX_x = 192 + idxX and TRAILER_BASE = 240 + trailer. SYN(j) = 16 + syn[j], since R141 puts it in 16..31. -/
structure Config where
  /-- SYN (R141), its low four bits. -/
  syn : Vector (BitVec 4) 16
  /-- SA, the device address of every transport call (log 27). -/
  sa : Nat
  eeAddr : Word
  regStatus : Word
  rdyMask : Word
  subpMask : Word
  regClear : Word
  valClear : Word
  regCtrl : Word
  /-- WIN_ADDR[0][k]. -/
  winAddr0 : Vector Word 6
  /-- WIN_ADDR[1][k]. -/
  winAddr1 : Vector Word 6
  tailAddr : Word
  trailer : Fin 593
  idxPtat : Fin 48
  idxPtatArt : Fin 48
  idxVdd : Fin 48
  idxGain : Fin 48
  idxCp : Fin 48
  resMask : Word
  resShift : Nat
  /-- FDMAP: the rows that differ from the default table of 93 G2 (log 20). -/
  fdmap : List (RowName × FdRow)
  devSel : DevSel
  freqKhz : Nat
  cfgSeq : List Rmw
  emissivityStored : FWord
  num : Numerics
  fVdd : Formula
  fTa : Formula
  fCpOff : Formula
  fPixOff : Formula
  fSx : Formula
  fDen2 : Formula
  fAcorr : Formula
deriving DecidableEq, Repr

end Sys2Proof
end

