-- ==== Sys2Proof/Machine/Float.lean ====
section
/-! DEFINITION. The operators of NUM (00_scope R10, R15; log 4). Each takes the numerics record. The default (93 G12) is IEEE
754 binary32, round to nearest even, every operator rounded once: a finite value is an integer number of units of
2^(−149); every operator computes its exact result in these units and rounds it once. An operation without a real-number
value (R16), and one whose result or operand is not finite (93 U7; log 7), gives `unspecified`. The operators of another
numerics record are opaque functions of their operands; what is computed from an unspecified operand is unspecified. -/

namespace Sys2Proof

/-- The binary32 exponent field, bits 30:23 (R93). -/
def F32.expField (x : F32) : Nat := x.toNat / 2 ^ 23 % 256

/-- The value is a number, not an infinity or a NaN. -/
def F32.finite (x : F32) : Bool := decide (F32.expField x ≠ 255)

/-- The sign, bit 31 (R93). -/
def F32.neg (x : F32) : Bool := decide (2 ^ 31 ≤ x.toNat)

/-- The magnitude in units of 2^(−149). -/
def F32.mag (x : F32) : Nat :=
  if F32.expField x = 0 then x.toNat % 2 ^ 23
  else (x.toNat % 2 ^ 23 + 2 ^ 23) * 2 ^ (F32.expField x - 1)

/-- The signed value in units of 2^(−149). -/
def F32.units (x : F32) : Int := if F32.neg x then -(F32.mag x : Int) else (F32.mag x : Int)

/-- n / d rounded to the nearest integer, ties to even. -/
def roundEven (n d : Nat) : Nat :=
  let q := n / d
  let r := n % d
  if 2 * r < d then q
  else if d < 2 * r then q + 1
  else if q % 2 = 0 then q else q + 1

/-- How many low bits of an integer part of q units a 24-bit significand drops. -/
def dropBits (q : Nat) : Nat := Nat.log2 q + 1 - 24

/-- The sign bit as a number. -/
def signBits (neg : Bool) : Nat := if neg then 2 ^ 31 else 0

/-- The binary32 value nearest to n / d units, with this sign; `unspecified` where it would not be finite. -/
def F32.ofRatio (neg : Bool) (n d : Nat) : FVal :=
  let sh := dropBits (n / d)
  let b := sh * 2 ^ 23 + roundEven n (d * 2 ^ sh)
  if b < 0x7F800000 then .num (BitVec.ofNat 32 (b + signBits neg)) else .unspecified

/-- A number of units as a binary32 value; an exact zero is +0. -/
def F32.ofUnits (z : Int) : FVal := F32.ofRatio (decide (z < 0)) z.natAbs 1

/-- The greatest r + t with t < 2^k whose square is at most x, by trying one bit of t after the other. -/
def sqrtFloorFrom (x : Nat) : Nat → Nat → Nat
  | 0, r => r
  | k + 1, r =>
    let c := r + 2 ^ k
    if c * c ≤ x then sqrtFloorFrom x k c else sqrtFloorFrom x k r

/-- The integer square root. -/
def sqrtFloor (x : Nat) : Nat := sqrtFloorFrom x (Nat.log2 x / 2 + 1) 0

/-! ## Binary32 values: the operators on two finite operands -/

/-- The sum of two finite values. Of two zeros the sum is −0 only when both are (IEEE 754; log 24). -/
def F32.add (x y : F32) : FVal :=
  if F32.units x + F32.units y = 0 then .num (if F32.neg x && F32.neg y then 0x80000000 else 0)
  else F32.ofUnits (F32.units x + F32.units y)

/-- The difference of two finite values: the sum with the second's sign changed. -/
def F32.sub (x y : F32) : FVal := F32.add x (y ^^^ 0x80000000)

/-- The product of two finite values. -/
def F32.mul (x y : F32) : FVal := F32.ofRatio (F32.neg x != F32.neg y) (F32.mag x * F32.mag y) (2 ^ 149)

/-- The quotient of two finite values; `unspecified` for a zero divisor (R16). -/
def F32.div (x y : F32) : FVal :=
  if F32.mag y = 0 then .unspecified
  else F32.ofRatio (F32.neg x != F32.neg y) (F32.mag x * 2 ^ 149) (F32.mag y)

/-- The square root of a finite value; `unspecified` for a negative one (R16). The integer root has over 70 bits, so
that half a unit stands for everything the root drops. -/
def F32.sqrt (x : F32) : FVal :=
  if F32.mag x = 0 then .num x
  else if F32.neg x then .unspecified
  else
    let n := F32.mag x * 2 ^ 149
    let q := sqrtFloor n
    F32.ofRatio false (2 * q + if q * q = n then 0 else 1) 2

/-- A result, from two values that are finite binary32 values. -/
def FVal.lift2 (f : F32 → F32 → FVal) : FVal → FVal → FVal
  | .num x, .num y => if F32.finite x && F32.finite y then f x y else .unspecified
  | _, _ => .unspecified

/-- A result, from one value that is a finite binary32 value. -/
def FVal.lift1 (f : F32 → FVal) : FVal → FVal
  | .num x => if F32.finite x then f x else .unspecified
  | _ => .unspecified

/-- A binary operator of NUM: the binary32 one, or another record's, which needs two specified operands (R16). -/
def Numerics.op2 (n : Numerics) (f : F32 → F32 → FVal) (g : Nat → FVal → FVal → FVal) (a b : FVal) : FVal :=
  match n with
  | .binary32 => FVal.lift2 f a b
  | .custom k => if a = .unspecified ∨ b = .unspecified then .unspecified else g k a b

/-! ## The operators of NUM -/

/-- A value as an operand: in binary32 `unspecified` unless it is finite (log 7). -/
def FVal.checked (n : Numerics) (a : FVal) : FVal :=
  match n with
  | .binary32 => FVal.lift1 FVal.num a
  | .custom _ => a

/-- The value of an operand word, binary32 on the port (R15, 30_encoding R93). -/
def FVal.ofBits (n : Numerics) (x : F32) : FVal := (FVal.num x).checked n

def FVal.add (a : FVal) (n : Numerics) (b : FVal) : FVal := n.op2 F32.add Config.numAdd a b
def FVal.sub (a : FVal) (n : Numerics) (b : FVal) : FVal := n.op2 F32.sub Config.numSub a b
def FVal.mul (a : FVal) (n : Numerics) (b : FVal) : FVal := n.op2 F32.mul Config.numMul a b

/-- The quotient; `unspecified` for a zero divisor, whatever NUM is (R16). -/
def FVal.div (a : FVal) (n : Numerics) (b : FVal) : FVal :=
  n.op2 F32.div (fun k a b => if Config.numIsZero k b then .unspecified else Config.numDiv k a b) a b

/-- The fourth root (R15), `unspecified` for a negative radicand (R16); in binary32 sqrt(sqrt(x)) (R231; log 34). -/
def FVal.root4 (n : Numerics) (a : FVal) : FVal :=
  match n with
  | .binary32 => FVal.lift1 F32.sqrt (FVal.lift1 F32.sqrt a)
  | .custom k => if a = .unspecified ∨ Config.numIsNegative k a = true then .unspecified else Config.numRoot4 k a

/-- The fourth power, by two squarings (R230). -/
def FVal.pow4 (n : Numerics) (a : FVal) : FVal := (a.mul n a).mul n (a.mul n a)

/-- i2f in binary32. -/
def F32.ofInt (z : Int) : FVal := F32.ofUnits (z * 2 ^ 149)

/-- pow2 in binary32: 2^e rounded; too large an e has no finite value. -/
def F32.pow2 (e : Int) : FVal :=
  if e < -149 then .num 0
  else if 127 < e then .unspecified
  else F32.ofUnits (2 ^ (e + 149).toNat)

/-- i2f (R15). -/
def i2f (n : Numerics) (z : Int) : FVal :=
  match n with
  | .binary32 => F32.ofInt z
  | .custom k => Config.numOfInt k z

/-- pow2 (R15). -/
def pow2 (n : Numerics) (e : Int) : FVal :=
  match n with
  | .binary32 => F32.pow2 e
  | .custom k => Config.numPow2 k e

/-- The value of a decimal literal p / q in NUM. -/
def literal (n : Numerics) (p q : Nat) : FVal :=
  match n with
  | .binary32 => F32.ofRatio false (p * 2 ^ 149) q
  | .custom k => Config.numLiteral k p q

/-- The outcome of a comparison of two values; nothing where one of them is unspecified (log 29). -/
def Numerics.compare (n : Numerics) (f : F32 → F32 → Bool) (g : Nat → FVal → FVal → Bool) (a b : FVal) : Option Bool :=
  match n with
  | .binary32 =>
    match a, b with
    | .num x, .num y => if F32.finite x && F32.finite y then some (f x y) else none
    | _, _ => none
  | .custom k => if a = .unspecified ∨ b = .unspecified then none else some (g k a b)

/-- |a| > |b| (R245). -/
def FVal.absGt (a : FVal) (n : Numerics) (b : FVal) : Option Bool :=
  n.compare (fun x y => decide (F32.mag y < F32.mag x)) Config.numAbsGt a b

/-- a < b. -/
def FVal.lt (a : FVal) (n : Numerics) (b : FVal) : Option Bool :=
  n.compare (fun x y => decide (F32.units x < F32.units y)) Config.numLt a b

/-- a < z for a value and an exact integer (R234; log 23). -/
def FVal.ltInt (a : FVal) (n : Numerics) (z : Int) : Option Bool :=
  match n with
  | .binary32 =>
    match a with
    | .num x => if F32.finite x then some (decide (F32.units x < z * 2 ^ 149)) else none
    | _ => none
  | .custom k => if a = .unspecified then none else some (Config.numLtInt k a z)

/-! ## Registers that hold an F value -/

/-- The value a register holds: `unspecified` where the spec does not fix it (R16). -/
def FWord.val : FWord → FVal
  | .free _ => .unspecified
  | .num x => .num x
  | .coded m => .coded m

/-- A value as it is stored: an unspecified one becomes the free bits given (log 6). -/
def FVal.toWord (v : FVal) (bits : F32) : FWord :=
  match v with
  | .num x => .num x
  | .coded m => .coded m
  | .unspecified => .free bits

/-- The 32 bits a port shows for a register, binary32 whatever NUM is (R15). -/
def FWord.port (n : Numerics) : FWord → F32
  | .free x => x
  | .num x => x
  | .coded m => Config.numPort n m

/-- A CAL field as an F value: i2f of an integer, or the F value itself (R25). -/
def CalVal.toF (n : Numerics) : CalVal → FVal
  | .int z => i2f n z
  | .flt w => w.val

/-- pow2 of a CAL field; the exponent must be an integer (log 22). -/
def CalVal.pow2 (n : Numerics) : CalVal → FVal
  | .int z => Sys2Proof.pow2 n z
  | .flt _ => .unspecified

/-- i2f(a − b) for two CAL integers (R236), or the F difference where a row's mode makes them F values (log 22). -/
def CalVal.subF (n : Numerics) (a b : CalVal) : FVal :=
  match a, b with
  | .int x, .int y => i2f n (x - y)
  | x, y => (x.toF n).sub n (y.toF n)

/-- x < c for a value and a CAL field (R234). -/
def FVal.ltCal (x : FVal) (n : Numerics) : CalVal → Option Bool
  | .int z => x.ltInt n z
  | .flt w => x.lt n w.val

end Sys2Proof
end

