-- ==== Sys2Proof/Machine/Memory.lean ====
section
/-! DEFINITION. The operations on one address space (20_memory R60, R66): reading and writing one element, and the bulk
forms. A space is a sparse list in canonical form (log 13); an index that is not listed reads as `Memory.unlisted`. -/

namespace Sys2Proof

/-- What an unlisted index reads as: the zero of the element type. The spec gives no reset contents (R43, log 12). -/
def Memory.unlisted (α : Type) [Inhabited α] : α := default

/-- Read one element. -/
def Memory.read {α : Type} [Inhabited α] : Memory α → Nat → α
  | [], _ => Memory.unlisted α
  | (a, v) :: rest, i => if a = i then v else Memory.read rest i

/-- Put an element in front, unless it is what an unlisted index reads as. -/
def Memory.put {α : Type} [Inhabited α] [DecidableEq α] (i : Nat) (v : α) (m : Memory α) : Memory α :=
  if v = Memory.unlisted α then m else (i, v) :: m

/-- Write one element, keeping the canonical form. -/
def Memory.write {α : Type} [Inhabited α] [DecidableEq α] : Memory α → Nat → α → Memory α
  | [], i, v => Memory.put i v []
  | (a, w) :: rest, i, v =>
    if a < i then (a, w) :: Memory.write rest i v
    else if a = i then Memory.put i v rest
    else Memory.put i v ((a, w) :: rest)

/-- Write consecutive elements from an index on. -/
def Memory.writeList {α : Type} [Inhabited α] [DecidableEq α] : Memory α → Nat → List α → Memory α
  | m, _, [] => m
  | m, i, v :: vs => Memory.writeList (Memory.write m i v) (i + 1) vs

/-- The space whose elements from index i on are these. -/
def Memory.ofListFrom {α : Type} [Inhabited α] [DecidableEq α] : Nat → List α → Memory α
  | _, [] => []
  | i, v :: vs => Memory.put i v (Memory.ofListFrom (i + 1) vs)

/-- The space whose elements from index 0 on are these. -/
def Memory.ofList {α : Type} [Inhabited α] [DecidableEq α] (vs : List α) : Memory α := Memory.ofListFrom 0 vs

/-- The space of n elements given by a function of the index. -/
def Memory.ofFn {α : Type} [Inhabited α] [DecidableEq α] (n : Nat) (f : Nat → α) : Memory α :=
  Memory.ofList ((List.range n).map f)

/-- The canonical form from index i on: indices strictly rising, no entry equal to what an unlisted index reads as. -/
def Memory.wfFrom {α : Type} [Inhabited α] [DecidableEq α] : Nat → Memory α → Bool
  | _, [] => true
  | i, (a, v) :: rest => decide (i ≤ a) && decide (v ≠ Memory.unlisted α) && Memory.wfFrom (a + 1) rest

/-- The canonical form. -/
def Memory.wf {α : Type} [Inhabited α] [DecidableEq α] (m : Memory α) : Bool := Memory.wfFrom 0 m

/-- Every listed index is below n. -/
def Memory.below {α : Type} (n : Nat) (m : Memory α) : Bool := m.all fun e => decide (e.1 < n)

end Sys2Proof
end

