-- ==== Sys2Proof/Syntax.lean ====
section
/-! DEFINITION. The commands of TTS-CORE, one constructor for each row of spec/opcode_table.json (30_encoding R100),
each with the operands R91 to R93 give it. -/

namespace Sys2Proof

/-- A command. -/
inductive Instr where
  /-- XRAW (R121): extract a raw field. -/
  | xraw (d : Desc)
  /-- XSGL (R125): extract a single field, signed when `sgn`. -/
  | xsgl (sgn : Bool) (d : Desc)
  /-- XDBL (R127): extract a dual field, hi then lo, signed when `sgn`. -/
  | xdbl (sgn : Bool) (hi lo : Desc)
  /-- SEXT (R126): sign-extend XR at the width. -/
  | sext (width : Word)
  /-- SCDIV (R130): FR <- XR / 2^exp. -/
  | scdiv (exp : BitVec 6)
  /-- SCMUL (R131): XR <- XR * 2^exp. -/
  | scmul (exp : BitVec 6)
  /-- LDX (R132): load XR. -/
  | ldx (n : Word32)
  /-- ECCW (R147): decode one word. -/
  | eccw (w : Word)
  /-- ECCS (R150): scan the image. -/
  | eccs
  /-- CALX (R160): extract the calibration. -/
  | calx
  /-- EELD (R190): capture the image. -/
  | eeld
  /-- FRD (R195): one frame acquisition. -/
  | frd
  /-- AMB (R222): ambient temperature. -/
  | amb
  /-- CALCTO (R225): per-pixel temperatures, emissivity and reflected temperature as binary32. -/
  | calcto (eps tr : F32)
  /-- BPFIX (R245): repair the broken pixels. -/
  | bpfix
  /-- INIT (R262). -/
  | init
  /-- RDFRAME (R268). -/
  | rdframe
  /-- CALCT (R270). -/
  | calct
  /-- GETT (R272): read one temperature. -/
  | gett (index : Word)
  /-- GETAMB (R273): read the ambient temperature. -/
  | getamb
deriving DecidableEq, Repr

end Sys2Proof
end

