-- ==== Sys2Proof/Machine/Legal.lean ====
section
/-! DEFINITION. The range checks of the decoding stage (60_exceptions R293 check 2), one for each kind of operand. -/

namespace Sys2Proof

/-- A descriptor is well-formed when its width is in 1..32 (R96). -/
def Desc.wf (d : Desc) : Bool := decide (1 ≤ d.width.toNat) && decide (d.width.toNat ≤ 32)

/-- SEXT's width is in 1..32 (R126). -/
def sextWidthOk (w : Word) : Bool := decide (1 ≤ w.toNat) && decide (w.toNat ≤ 32)

/-- SCMUL's exponent is in 0..31 (R131). -/
def scmulExpOk (e : BitVec 6) : Bool := decide (e.toNat ≤ 31)

end Sys2Proof
end

