-- ==== Sys2Proof/Machine/Parameters.lean ====
section
/-! DEFINITION. The numbers the document fixes (00_scope R9), the default values of the parameters it leaves open (93 Part
2, general knowledge; log 2, log 3), the default descriptor table, and when a configuration is well-made (R330). -/

namespace Sys2Proof

namespace Config

/-! ## The parameters whose value the document fixes (R9) -/

def eeWords : Nat := 832
def eccFirst : Nat := 16
def eccLast : Nat := 831
def dataMask : Word := 0x07FF
def fbWords : Nat := 834
def npix : Nat := 192
def rowW : Nat := 16
def nWin : Nat := 6
def winWords : Nat := 32
def tailWords : Nat := 48
def attMax : Nat := 5
def pollMax : Nat := 5
def nRange : Nat := 8
def alphaGroupPix : Nat := 32
def alphaBias : Int := 20
def alphaNorm : Int := 2047
def sentinel : Int := 0xFFFF
def dualMaxW : Nat := 32
def baseRange : Nat := 1

/-- CT_FIXED: ct[0..4] (R9, R166). -/
def ctFixed : List Int := [-40, -20, 0, 80, 120]

end Config

/-! ## The default parameter values (93 G1, G3, G4, G11; log 2, log 3) -/

/-- A descriptor of image index `index`: bits start .. start + width − 1. -/
def imageDesc (eeAddr : Word) (index start width : Nat) : Desc :=
  ⟨BitVec.ofNat 6 width, BitVec.ofNat 4 start, eeAddr + BitVec.ofNat 16 index⟩

/-- A row over one word. -/
def singleRow (eeAddr : Word) (signed : Bool) (index start width : Nat) (mode : ScaleMode) (exp : ExpSource) : FdRow :=
  ⟨imageDesc eeAddr index start width, Option.none, signed, mode, exp⟩

/-- A 16-bit row over two words: eleven high bits in `index`, five low bits in `index + 1`. -/
def dualRow (eeAddr : Word) (signed : Bool) (index : Nat) : FdRow :=
  ⟨imageDesc eeAddr index 0 11, some (imageDesc eeAddr (index + 1) 0 5), signed, .none, .const 0⟩

/-- The image index of ksTo[k] in the default table. -/
def ksToIndex (k : Nat) : Nat := if k < 5 then 53 + k else 59 + 2 * (k - 5)

/-- The default FDMAP (93 G2, PRESUMED: log 2; kVdd's row and the widths of aexp and amax are the document's, R161). -/
def printedRow (a : Word) : RowName → FdRow
  | .offScale => singleRow a false 16 5 6 .none (.const 0)
  | .offRef => dualRow a true 17
  | .ktaAvg => singleRow a true 21 0 11 .none (.const 0)
  | .ktaScale1 => singleRow a false 22 5 6 .none (.const 0)
  | .ktaScale2 => singleRow a false 22 0 5 .none (.const 0)
  | .kvAvg => singleRow a true 23 0 11 .none (.const 0)
  | .kvScale1 => singleRow a false 24 5 6 .none (.const 0)
  | .kvScale2 => singleRow a false 24 0 5 .none (.const 0)
  | .aexp g => singleRow a false (25 + g / 2) (if g % 2 = 0 then 5 else 0) 5 .none (.const 0)
  | .amax g => singleRow a false (28 + g) 0 11 .none (.const 0)
  | .ksTa => singleRow a true 34 0 11 .div (.const 15)
  | .emissivityEE => singleRow a true 35 0 11 .div (.const 9)
  | .gainEE => dualRow a false 36
  | .vdd25 => singleRow a true 38 0 11 .mul (.const 5)
  | .kVdd => singleRow a true 39 0 11 .mul (.const 5)
  | .vPTAT25 => dualRow a false 40
  | .ktPTAT => singleRow a true 42 0 11 .div (.const 3)
  | .kvPTAT => singleRow a true 43 0 11 .div (.const 12)
  | .alphaPTAT => singleRow a false 44 0 11 .div (.const 7)
  | .cpAlpha => singleRow a false 45 0 11 .div (.ofRow .cpAlphaScale 0)
  | .cpAlphaScale => singleRow a false 46 0 11 .none (.const 0)
  | .cpOffset => dualRow a true 47
  | .cpKta => singleRow a true 49 0 6 .div (.ofRow .cpKtaScale 0)
  | .cpKtaScale => singleRow a false 49 6 5 .none (.const 0)
  | .cpKv => singleRow a true 50 0 6 .div (.ofRow .cpKvScale 0)
  | .cpKvScale => singleRow a false 50 6 5 .none (.const 0)
  | .tgc => singleRow a true 51 0 9 .div (.const 6)
  | .resolutionEE => singleRow a false 51 9 2 .none (.const 0)
  | .ksToScale => singleRow a false 52 0 11 .none (.const 0)
  | .ksTo k => singleRow a true (ksToIndex k) 0 11 .div (.ofRow .ksToScale 0)
  | .ct k => singleRow a false (58 + 2 * (k - 5)) 0 11 .none (.const 0)
  | .offPix false p => singleRow a true (64 + p) 0 11 .none (.const 0)
  | .apix p => singleRow a false (256 + p) 0 11 .none (.const 0)
  | .ktaDelta p => singleRow a true (448 + p) 5 6 .none (.const 0)
  | .kvDelta p => singleRow a true (448 + p) 0 5 .none (.const 0)
  | .offPix true p => singleRow a true (640 + p) 0 11 .none (.const 0)

/-- The row of FDMAP with this name: the configuration's own row if it has one, else the default one (log 20). -/
def Config.row (c : Config) (n : RowName) : FdRow := (c.fdmap.lookup n).getD (printedRow c.eeAddr n)

/-- The default parameter values: SYN from 93 G1, DEVSEL from G3, device data from G11 (PRESUMED: log 2); FREQ_KHZ,
EMISSIVITY_STORED and CFG_SEQ as the test vectors use them (DESIGN CHOICE: log 3); NUM is R15's default. -/
def Config.standard : Config where
  syn := #v[3, 5, 6, 7, 9, 10, 11, 12, 13, 14, 15, 1, 2, 4, 8, 0]
  sa := 0x33
  eeAddr := 0x2400
  regStatus := 0x8000
  rdyMask := 0x0008
  subpMask := 0x0001
  regClear := 0x8000
  valClear := 0x0030
  regCtrl := 0x800D
  winAddr0 := #v[0x0400, 0x0440, 0x0480, 0x04C0, 0x0500, 0x0540]
  winAddr1 := #v[0x0420, 0x0460, 0x04A0, 0x04E0, 0x0520, 0x0560]
  tailAddr := 0x0580
  trailer := 592
  idxPtat := 32
  idxPtatArt := 0
  idxVdd := 42
  idxGain := 10
  idxCp := 8
  resMask := 0x0C00
  resShift := 10
  fdmap := []
  devSel := .anyBitSet 10 0x0040
  freqKhz := 400
  cfgSeq := [⟨0x800D, 0xF3FF, 0x0800⟩, ⟨0x800D, 0xFC7F, 0x0180⟩]
  emissivityStored := .num 0x3F733333
  num := .binary32
  fVdd := .printed
  fTa := .printed
  fCpOff := .printed
  fPixOff := .printed
  fSx := .printed
  fDen2 := .printed
  fAcorr := .printed

/-! ## Positions the parameters give -/

/-- SYN(j) for a bit position j (R141). -/
def Config.synOf (c : Config) (j : Nat) : Nat := 16 + ((c.syn[j]?).getD 0).toNat

/-- TRAILER_BASE, in 240..832 (R10). -/
def Config.trailerBase (c : Config) : Nat := 240 + c.trailer.val

/-- IDX_PTAT, in 192..239 (R10). -/
def Config.atPtat (c : Config) : Nat := 192 + c.idxPtat.val

/-- IDX_PTAT_ART. -/
def Config.atPtatArt (c : Config) : Nat := 192 + c.idxPtatArt.val

/-- IDX_VDD. -/
def Config.atVdd (c : Config) : Nat := 192 + c.idxVdd.val

/-- IDX_GAIN. -/
def Config.atGain (c : Config) : Nat := 192 + c.idxGain.val

/-- IDX_CP. -/
def Config.atCp (c : Config) : Nat := 192 + c.idxCp.val

/-- WIN_ADDR[s][k] (R10, R70), subpage 1 when `s`. -/
def Config.winAddr (c : Config) (s : Bool) (k : Nat) : Word :=
  if s then (c.winAddr1[k]?).getD 0 else (c.winAddr0[k]?).getD 0

/-! ## The names of FDMAP's rows, in the order CALX evaluates them -/

/-- The rows of the fifteen scalars (R164), in the order R24 lists them. -/
def scalarRows : List RowName :=
  [.kVdd, .vdd25, .kvPTAT, .ktPTAT, .vPTAT25, .alphaPTAT, .gainEE, .tgc, .ksTa, .emissivityEE, .resolutionEE,
    .cpAlpha, .cpOffset, .cpKv, .cpKta]

/-- The rows CALX reads by fieldval, which may use their exponent (R164, R165, R166). -/
def valueRows : List RowName := scalarRows ++ (List.range 8).map .ksTo ++ [.ct 5, .ct 6, .ct 7]

/-- The rows CALX reads by fieldint, which use no exponent (R167 to R170). -/
def fieldRows : List RowName :=
  (List.range 6).map .aexp
    ++ (List.range 6).map .amax
    ++ (List.range Config.npix).map .apix
    ++ [.ktaAvg, .ktaScale1, .ktaScale2]
    ++ (List.range Config.npix).map .ktaDelta
    ++ [.kvAvg, .kvScale1, .kvScale2]
    ++ (List.range Config.npix).map .kvDelta
    ++ [.offScale, .offRef]
    ++ (List.range Config.npix).map (.offPix false)
    ++ (List.range Config.npix).map (.offPix true)

/-- The auxiliary rows of the default table, which only supply exponents (R161). -/
def auxiliaryRows : List RowName := [.ksToScale, .cpAlphaScale, .cpKtaScale, .cpKvScale]

/-- Every row of FDMAP (R161). The first two lists are the rows CALX evaluates, in the order of R160's steps (R164 to R170;
within a step the order is log 18's). -/
def tableRows : List RowName := valueRows ++ fieldRows ++ auxiliaryRows

/-! ## When a configuration is well-made -/

/-- SYN is a bijection onto 16..31 (R141, R330): no two positions share a syndrome. -/
def Config.synInjective (c : Config) : Bool :=
  (List.range 16).all fun i => (List.range 16).all fun j => i == j || c.synOf i != c.synOf j

/-- A mask has exactly one bit set (R330). -/
def oneBit (m : Word) : Bool := (List.range 16).any fun i => m == BitVec.ofNat 16 (2 ^ i)

/-- The five auxiliary indices are pairwise distinct (R330). -/
def Config.idxDistinct (c : Config) : Bool :=
  let l := [c.atPtat, c.atPtatArt, c.atVdd, c.atGain, c.atCp]
  decide l.Nodup

/-- The address lies inside the image (R61). -/
def Config.inImage (c : Config) (a : Word) : Bool :=
  decide (c.eeAddr.toNat ≤ a.toNat) && decide (a.toNat ≤ c.eeAddr.toNat + 831)

/-- A row is well-made (R162): well-formed descriptors, addresses inside the image, combined width at most 32. -/
def Config.rowWellMade (c : Config) (r : FdRow) : Bool :=
  r.hi.wf && c.inImage r.hi.addr &&
    match r.lo with
    | Option.none => true
    | some l => l.wf && c.inImage l.addr && decide (r.hi.width.toNat + l.width.toNat ≤ Config.dualMaxW)

/-- The width of a row's field: the combined width of a two-word row (R127, R161). -/
def FdRow.width (r : FdRow) : Nat :=
  match r.lo with
  | Option.none => r.hi.width.toNat
  | some l => r.hi.width.toNat + l.width.toNat

/-- The row that a row takes its exponent from, if any (R161). -/
def FdRow.expRow (r : FdRow) : Option RowName :=
  match r.exp with
  | .const _ => Option.none
  | .ofRow n _ => some n

/-- FDMAP is well-made (R162): every row is, and so is every row an exponent comes from. -/
def Config.fdmapWellMade (c : Config) : Bool :=
  tableRows.all fun n =>
    c.rowWellMade (c.row n) &&
      match (c.row n).expRow with
      | Option.none => true
      | some e => c.rowWellMade (c.row e)

/-- What the document itself fixes of FDMAP (R161): kVdd's width, sign and scaling; the whole widths of aexp and amax; the
signed per-pixel rows. -/
def Config.fdmapAsDocumented (c : Config) : Bool :=
  ((c.row .kVdd).hi.width == 11 && (c.row .kVdd).lo.isNone && (c.row .kVdd).signed
      && (c.row .kVdd).mode == .mul && (c.row .kVdd).exp == .const 5)
    && ((List.range 6).all fun g => (c.row (.aexp g)).width == 5 && (c.row (.amax g)).width == 11)
    && ((List.range Config.npix).all fun p =>
      (c.row (.ktaDelta p)).signed && (c.row (.kvDelta p)).signed
        && (c.row (.offPix false p)).signed && (c.row (.offPix true p)).signed)

/-- The parameters agree (R330). The bounds on TRAILER_BASE and on the IDX_ values hold by their types. -/
def Config.wf (c : Config) : Bool :=
  decide (c.eeAddr.toNat + 831 ≤ 0xFFFF) && oneBit c.rdyMask && oneBit c.subpMask && c.rdyMask != c.subpMask
    && c.idxDistinct && c.fdmapWellMade && c.fdmapAsDocumented && c.synInjective

end Sys2Proof
end

