-- ==== Sys2Proof/Machine/State.lean ====
section
/-! DEFINITION. The architectural state (10_state R20 to R43), the model's own fields beside it, and the state after
reset. State is plain data: no field holds a function. -/

namespace Sys2Proof.Machine

/-- The status codes (60_exceptions R280). Codes 12..15 are never written and have no name. -/
inductive Status where
  | ok
  | correctedError
  | uncorrectableError
  | unusable
  | transportError
  | frameTimeout
  | addressOutOfRange
  | fieldTooWide
  | illegalCommand
  | badState
  | badOperand
  | halted
deriving DecidableEq, Repr

/-- EE_STATE (R32). Value 3 never occurs. -/
inductive EeState where
  | empty
  | raw
  | decoded
deriving DecidableEq, Repr

/-- The result of a Hamming decode: ECCST (R34) and the status of one word (R144). -/
inductive EccStatus where
  | clean
  | corrected
  | uncorrectable
deriving DecidableEq, Repr

/-- FS, the frame reader's state (R37). Values 6 and 7 never occur. -/
inductive FrState where
  | idle
  | pollStatus
  | clearFlag
  | readWindows
  | repoll
  | readCtrl
deriving DecidableEq, Repr

/-- A request on the transport port (20_memory R62). -/
inductive BusReq where
  /-- BusInit(freq_khz). -/
  | init (khz : Nat)
  /-- BusRead(addr, reg, word_count). -/
  | read (sa : Nat) (reg : Word) (count : Nat)
  /-- BusWrite(addr, reg, value). -/
  | write (sa : Nat) (reg value : Word)
deriving DecidableEq, Repr

/-- What the transport answers a request (00_scope R17). A write or init answered `ok` carries no words; words that a
read's `ok` does not carry are free (log 8). -/
inductive BusAnswer where
  | err
  | ok (words : List Word)
deriving DecidableEq, Repr

/-- What the host does next: hand over a transaction (30_encoding R90), or pull the reset input (70_reset R336). -/
inductive HostAct where
  | transaction (words : List Word32)
  | reset
deriving DecidableEq, Repr

/-- Reasons for the machine to stop with a fault. There is none: every command ends by writing a status code
(R276) and the sticky FAULT of R286 is state, after which each command is still answered, with Halted (R290; log 32).
An empty type is safe: it lets no run end early. -/
inductive Fault
deriving DecidableEq, Repr

/-- Reasons for the model to refuse an instruction. -/
inductive Refusal where
  /-- Raised by an arm of exec that has no meaning yet; no arm is left so. Safe: a refused run proves nothing. -/
  | notModelled (mnemonic : String)
deriving DecidableEq, Repr

/-- The state of the block, with the model's own fields last. -/
structure State where
  /-- EE, the image (R20). -/
  ee : Memory Word
  /-- FB, the frame buffer (R21). -/
  fb : Memory Word
  /-- TF, the temperature frame (R22). -/
  tf : Memory FWord
  /-- CAL (R24). -/
  cal : Calibration
  /-- TA (R27). -/
  ta : FWord
  /-- XR, 64 bits two's complement (R28). -/
  xr : BitVec 64
  /-- FR (R29). -/
  fr : FWord
  /-- EMIS (R30). -/
  emis : FWord
  /-- STATUS (R31). -/
  status : Status
  /-- FLAGS.INITED (R32). -/
  inited : Bool
  /-- FLAGS.EE_STATE (R32). -/
  eeState : EeState
  /-- FLAGS.CAL_VALID (R32). -/
  calValid : Bool
  /-- FLAGS.FB_VALID (R32). -/
  fbValid : Bool
  /-- FLAGS.TF_VALID (R32). -/
  tfValid : Bool
  /-- FLAGS.TA_VALID (R32). -/
  taValid : Bool
  /-- FLAGS.FAULT (R32, R286). -/
  faulted : Bool
  /-- ECCST (R34). -/
  eccst : EccStatus
  /-- WARN.W_ECC (R35). -/
  wEcc : Bool
  /-- WARN.W_CFG (R35). -/
  wCfg : Bool
  /-- FS (R37). -/
  fs : FrState
  /-- NP, failed readiness polls (R38). -/
  np : Nat
  /-- ATT, completed passes (R38). -/
  att : Nat
  /-- WIN, the next window (R38). -/
  win : Nat
  /-- SUBP, the subpage parity (R39). -/
  subp : Bool
  /-- STW, the last status word (R40). -/
  stw : Word
  /-- MODEL: the configuration record (R10), which no command writes (log 1). -/
  cfg : Config
  /-- MODEL: the answers the transport will give, next first; after them every answer is free (log 8). -/
  script : List BusAnswer
  /-- MODEL: the requests issued so far, newest first (log 9). -/
  reqs : List BusReq
  /-- MODEL: what the host will still do, next first (log 10). -/
  cmds : List HostAct
  /-- MODEL: how many free F values have been drawn (log 6). -/
  draws : Nat
deriving DecidableEq, Repr

/-- An F register without a specified value, at the value the model names for reset (log 12). -/
def fwordAtReset : FWord := .free 0

/-- CAL at reset: unspecified (R43); zero is the model's value (log 12). -/
def calAtReset : Calibration where
  kVdd := .int 0
  vdd25 := .int 0
  kvPTAT := .int 0
  ktPTAT := .int 0
  vPTAT25 := .int 0
  alphaPTAT := .int 0
  gainEE := .int 0
  tgc := .int 0
  ksTa := .int 0
  emissivityEE := .int 0
  resolutionEE := .int 0
  cpAlpha := .int 0
  cpOffset := .int 0
  cpKv := .int 0
  cpKta := .int 0
  ksTo := []
  ct := []
  alpha := []
  offset0 := []
  offset1 := []
  kta := []
  kv := []
  broken0 := 0
  broken1 := 0

/-- The machine right after reset (R43, R310). Arrays list nothing, so that every element reads as 0 (log 12); the
host has nothing pending (log 10); the parameters have their default values (log 2, log 3). -/
def State.reset : State where
  ee := []
  fb := []
  tf := []
  cal := calAtReset
  ta := fwordAtReset
  xr := 0
  fr := fwordAtReset
  emis := Config.standard.emissivityStored
  status := .ok
  inited := false
  eeState := .empty
  calValid := false
  fbValid := false
  tfValid := false
  taValid := false
  faulted := false
  eccst := .clean
  wEcc := false
  wCfg := false
  fs := .idle
  np := 0
  att := 0
  win := 0
  subp := false
  stw := 0
  cfg := Config.standard
  script := []
  reqs := []
  cmds := []
  draws := 0

end Sys2Proof.Machine
end

