-- ==== Sys2Proof/Machine/Ops.lean ====
section
/-! DEFINITION. The named operations every meaning is written over: ending a command with a status (60_exceptions R284,
R285), the order of checks (R293), the result registers, the transport port (20_memory R62 to R64), and reset.
Taking an exception is `State.raise`. There is no return from one: nothing is entered (R296). -/

namespace Sys2Proof.Machine

/-! ## Ending a command -/

/-- Whether a status is a descriptor contract violation (R286). -/
def Status.contract : Status → Bool
  | .addressOutOfRange => true
  | .fieldTooWide => true
  | _ => false

/-- `raise X` (R284): STATUS <- X, FAULT <- 1 for a contract violation (R286), FS <- IDLE. Writes made before it stay. -/
def State.raise (s : State) (x : Status) : State :=
  { s with status := x, faulted := s.faulted || x.contract, fs := .idle }

/-- A refusal (R285): STATUS and nothing else. -/
def State.refuse (s : State) (x : Status) : State := { s with status := x }

/-- STATUS <- OK at the end of a command's pseudocode. -/
def State.done (s : State) : State := { s with status := .ok }

/-- The first three checks of every command, in R293's order: Halted (R290), IllegalCommand, BadState (R291); then the
command's own pseudocode. -/
def State.command (s : State) (legal pre : Bool) (body : State → State) : State :=
  if s.faulted then s.refuse .halted
  else if !legal then s.refuse .illegalCommand
  else if !pre then s.refuse .badState
  else body s

/-! ## Registers -/

/-- XR <- z, a value that fits 64 bits signed (R133). -/
def State.setXr (s : State) (z : Int) : State := { s with xr := BitVec.ofInt 64 z }

/-- FR <- w. -/
def State.setFr (s : State) (w : FWord) : State := { s with fr := w }

/-- The free bits of the k-th draw from here (log 6). -/
def State.free (s : State) (k : Nat) : F32 := Config.freeF (s.draws + k)

/-! ## The transport port -/

/-- The n words of an ok answer: those the answer carries, then free ones (log 8). -/
def fillWords (k : Nat) : Nat → Nat → List Word → List Word
  | 0, _, _ => []
  | n + 1, j, [] => Config.busWord k j :: fillWords k n (j + 1) []
  | n + 1, j, w :: ws => w :: fillWords k n (j + 1) ws

/-- The answer to the next request: the script's, or a free one (R17; log 8). -/
def State.nextAnswer (s : State) : BusAnswer :=
  match s.script with
  | a :: _ => a
  | [] => if Config.busOk s.reqs.length then .ok [] else .err

/-- The state once a request has been issued and answered (R68: exactly one request). -/
def State.asked (s : State) (q : BusReq) : State := { s with script := s.script.tail, reqs := q :: s.reqs }

/-- What a request for n words gives: its words, or nothing for `err` (R62, R67). -/
def State.wordsAnswered (s : State) (n : Nat) : Option (List Word) :=
  match s.nextAnswer with
  | .err => none
  | .ok ws => some (fillWords s.reqs.length n 0 ws)

/-- BusRead(SA, reg, n): the words, or nothing for `err`; and the state after it. -/
def State.busRead (s : State) (reg : Word) (n : Nat) : Option (List Word) × State :=
  (s.wordsAnswered n, s.asked (.read s.cfg.sa reg n))

/-- BusWrite(SA, reg, v): whether it was answered ok, and the state after it. -/
def State.busWrite (s : State) (reg v : Word) : Bool × State :=
  ((s.wordsAnswered 0).isSome, s.asked (.write s.cfg.sa reg v))

/-- BusInit(FREQ_KHZ): whether it was answered ok, and the state after it. -/
def State.busInit (s : State) : Bool × State :=
  ((s.wordsAnswered 0).isSome, s.asked (.init s.cfg.freqKhz))

/-! ## Reset between commands -/

/-- The reset input (R310, R336): every register and array as `State.reset` has it, but FR, which is unspecified and so a
free value (R29, R43; log 11). What the reset does not touch stays: the parameters, the transport's answers (R311), the
requests issued, what the host does next. EMIS is EMISSIVITY_STORED (R30). -/
def State.hostReset (s : State) : State :=
  { State.reset with
    fr := .free (s.free 0)
    emis := s.cfg.emissivityStored
    cfg := s.cfg
    script := s.script
    reqs := s.reqs
    cmds := s.cmds
    draws := s.draws + 1 }

end Sys2Proof.Machine
end

