-- ==== Sys2Proof/Machine/Operands.lean ====
section
/-! DEFINITION. The operand forms: fields of image words (40_bitfield R120 to R128), the rows of FDMAP (42_calibration
R161), and the raw counters of the frame buffer (44_compensator R220, R221). -/

namespace Sys2Proof.Machine

/-! ## Fields of the image -/

/-- `sext_n(v)` (R126, 00_scope R13): v minus 2^n where bit n − 1 is set. -/
def sextNat (n v : Nat) : Int := if v.testBit (n - 1) then (v : Int) - 2 ^ n else v

/-- The image index of a device address, `a − EE_ADDR` (R61). -/
def imageIndex (c : Config) (a : Word) : Nat := a.toNat - c.eeAddr.toNat

/-- `raw(d)` for an address inside the image: shift and mask (R122). -/
def rawField (c : Config) (ee : Memory Word) (d : Desc) : Nat :=
  (ee.read (imageIndex c d.addr)).toNat / 2 ^ d.start.toNat % 2 ^ d.width.toNat

/-- The address check (R123). -/
def addressViolation (c : Config) (d : Desc) : Option Status :=
  if c.inImage d.addr then none else some .addressOutOfRange

/-- The value of a single field (R125). -/
def singleField (c : Config) (ee : Memory Word) (signed : Bool) (d : Desc) : Int :=
  if signed then sextNat d.width.toNat (rawField c ee d) else rawField c ee d

/-- The checks of a dual field, in their order: combined width, address of hi, address of lo (R127, R293). -/
def dualViolation (c : Config) (hi lo : Desc) : Option Status :=
  if Config.dualMaxW < hi.width.toNat + lo.width.toNat then some .fieldTooWide
  else (addressViolation c hi).or (addressViolation c lo)

/-- `(hi << lo.width) | lo` (R128). -/
def dualRaw (c : Config) (ee : Memory Word) (hi lo : Desc) : Nat :=
  rawField c ee hi * 2 ^ lo.width.toNat ||| rawField c ee lo

/-- The value of a dual field, sign-extended at the combined width (R127). -/
def dualField (c : Config) (ee : Memory Word) (signed : Bool) (hi lo : Desc) : Int :=
  if signed then sextNat (hi.width.toNat + lo.width.toNat) (dualRaw c ee hi lo) else dualRaw c ee hi lo

/-! ## Rows of FDMAP (R161) -/

/-- The contract violation a row's own descriptors have, if any (R162). -/
def rowViolation (c : Config) (r : FdRow) : Option Status :=
  match r.lo with
  | none => addressViolation c r.hi
  | some lo => dualViolation c r.hi lo

/-- `fieldint(r)`. -/
def fieldInt (c : Config) (ee : Memory Word) (n : RowName) : Int :=
  match (c.row n).lo with
  | none => singleField c ee (c.row n).signed (c.row n).hi
  | some lo => dualField c ee (c.row n).signed (c.row n).hi lo

/-- `e(r)`. -/
def rowExp (c : Config) (ee : Memory Word) (n : RowName) : Int :=
  match (c.row n).exp with
  | .const e => e
  | .ofRow m bias => fieldInt c ee m + bias

/-- `z * 2^e` where it is an integer; nothing for a negative exponent that leaves a fraction, where the spec states no
integer (log 19). -/
def shiftInt (z e : Int) : Option Int :=
  if 0 ≤ e then some (z * 2 ^ e.toNat)
  else if z % 2 ^ (-e).toNat = 0 then some (z / 2 ^ (-e).toNat)
  else none

/-- `fieldval(r)`: an exact integer for modes NONE and MUL (10_state R25), an F value for DIV. What the spec does not state
is free, with the number of a draw (log 6, log 19). -/
def fieldVal (c : Config) (ee : Memory Word) (draw : Nat) (n : RowName) : CalVal :=
  match (c.row n).mode with
  | .none => .int (fieldInt c ee n)
  | .mul => .int ((shiftInt (fieldInt c ee n) (rowExp c ee n)).getD (Config.freeInt draw))
  | .div =>
    .flt (((i2f c.num (fieldInt c ee n)).div c.num (pow2 c.num (rowExp c ee n))).toWord (Config.freeF draw))

/-! ## The frame buffer -/

/-- `s16(FB[i])`: a raw two's-complement counter (R220). -/
def fbSigned (fb : Memory Word) (i : Nat) : Int := (fb.read i).toInt

/-- `resram`: the ADC resolution the control-register echo holds (R221). -/
def resram (c : Config) (fb : Memory Word) : Nat := (fb.read c.trailerBase &&& c.resMask).toNat / 2 ^ c.resShift

/-- `sub`: the subpage in the trailer (R220). -/
def frameSub (c : Config) (fb : Memory Word) : Bool := fb.read (c.trailerBase + 1) != 0

end Sys2Proof.Machine
end

