-- ==== Sys2Proof/Machine/Flags.lean ====
section
/-! DEFINITION. The flag preconditions of the commands (60_exceptions R291), the numbers of the states and statuses, and the
ports the host reads: STATUS, FLAGS, CSR2, CSR3, XR and FR (10_state R28 to R40, 70_reset R336). -/

namespace Sys2Proof.Machine

/-! ## Preconditions (R291), one for each row of the table -/

/-- XRAW, XSGL, XDBL: EE_STATE is RAW or DECODED. -/
def State.imageReadable (s : State) : Bool := decide (s.eeState ≠ .empty)

/-- ECCS: EE_STATE = RAW. -/
def State.mayScan (s : State) : Bool := decide (s.eeState = .raw)

/-- CALX: EE_STATE is RAW or DECODED; CAL_VALID = 0. -/
def State.mayExtract (s : State) : Bool := decide (s.eeState ≠ .empty) && !s.calValid

/-- EELD: CAL_VALID = 0. -/
def State.mayLoad (s : State) : Bool := !s.calValid

/-- AMB, CALCTO: FB_VALID = 1; CAL_VALID = 1. -/
def State.mayCompensate (s : State) : Bool := s.fbValid && s.calValid

/-- BPFIX: TF_VALID = 1; CAL_VALID = 1. -/
def State.mayRepair (s : State) : Bool := s.tfValid && s.calValid

/-- INIT: INITED = 0; CAL_VALID = 0. -/
def State.mayInit (s : State) : Bool := !s.inited && !s.calValid

/-- RDFRAME: CAL_VALID = 1. -/
def State.mayReadFrame (s : State) : Bool := s.calValid

/-- CALCT: CAL_VALID = 1; FB_VALID = 1; TA_VALID = 1. -/
def State.mayCalculate (s : State) : Bool := s.calValid && s.fbValid && s.taValid

/-- GETT: TF_VALID = 1. -/
def State.mayGetTemp (s : State) : Bool := s.tfValid

/-- GETAMB: TA_VALID = 1. -/
def State.mayGetAmbient (s : State) : Bool := s.taValid

/-! ## Numbers -/

/-- The code of a status (R280). -/
def Status.code : Status → BitVec 4
  | .ok => 0
  | .correctedError => 1
  | .uncorrectableError => 2
  | .unusable => 3
  | .transportError => 4
  | .frameTimeout => 5
  | .addressOutOfRange => 6
  | .fieldTooWide => 7
  | .illegalCommand => 8
  | .badState => 9
  | .badOperand => 10
  | .halted => 11

/-- EE_STATE's number (R32). -/
def EeState.code : EeState → Nat
  | .empty => 0
  | .raw => 1
  | .decoded => 2

/-- ECCST's number (R34). -/
def EccStatus.code : EccStatus → Nat
  | .clean => 0
  | .corrected => 1
  | .uncorrectable => 2

/-- FS's number (R37). -/
def FrState.code : FrState → Nat
  | .idle => 0
  | .pollStatus => 1
  | .clearFlag => 2
  | .readWindows => 3
  | .repoll => 4
  | .readCtrl => 5

/-- max of two decode results, CLEAN < CORRECTED < UNCORRECTABLE (R150). -/
def EccStatus.max (a b : EccStatus) : EccStatus := if a.code ≤ b.code then b else a

/-- The status a decode result is reported as (R147, R150). -/
def EccStatus.status : EccStatus → Status
  | .clean => .ok
  | .corrected => .correctedError
  | .uncorrectable => .uncorrectableError

/-! ## Ports -/

/-- The port STATUS, CSR0 (R31). -/
def State.statusPort (s : State) : BitVec 4 := s.status.code

/-- The port FLAGS, CSR1 (R32). -/
def State.flagsPort (s : State) : BitVec 8 :=
  BitVec.ofNat 8
    (s.inited.toNat + 2 * s.eeState.code + 8 * s.calValid.toNat + 16 * s.fbValid.toNat + 32 * s.tfValid.toNat
      + 64 * s.taValid.toNat + 128 * s.faulted.toNat)

/-- The port CSR2: ECCST and WARN (R34, R35). -/
def State.csr2Port (s : State) : BitVec 4 :=
  BitVec.ofNat 4 (s.eccst.code + 4 * s.wEcc.toNat + 8 * s.wCfg.toNat)

/-- The port CSR3: FS, NP, ATT, WIN, SUBP (R37 to R39). -/
def State.csr3Port (s : State) : BitVec 13 :=
  BitVec.ofNat 13 (s.fs.code + 8 * s.np + 64 * s.att + 512 * s.win + 4096 * s.subp.toNat)

/-- The port XR, 64 bits (R28, R336). -/
def State.xrPort (s : State) : BitVec 64 := s.xr

/-- The port FR, 32 bits, binary32 whatever NUM is (R15, R29, R336). -/
def State.frPort (s : State) : F32 := s.fr.port s.cfg.num

end Sys2Proof.Machine
end

