-- ==== Sys2Proof/Machine/Bitfield.lean ====
section
/-! DEFINITION. BFX, the bitfield extractor (40_bitfield): XRAW, XSGL, XDBL, SEXT, SCDIV, SCMUL, LDX. -/

namespace Sys2Proof.Machine

/-- XR as a signed integer (R28). -/
def State.xrInt (s : State) : Int := s.xr.toInt

/-- End a field extraction: a contract violation is raised, else XR takes the value (R121, R125, R127). -/
def State.extracted (s : State) (violation : Option Status) (z : Int) : State :=
  match violation with
  | some x => s.raise x
  | none => (s.setXr z).done

/-- XRAW (R121). -/
def execXraw (d : Desc) (s : State) : Host.Outcome State Fault Refusal :=
  .next (s.command d.wf s.imageReadable fun s =>
    s.extracted (addressViolation s.cfg d) (rawField s.cfg s.ee d))

/-- XSGL (R125). -/
def execXsgl (sgn : Bool) (d : Desc) (s : State) : Host.Outcome State Fault Refusal :=
  .next (s.command d.wf s.imageReadable fun s =>
    s.extracted (addressViolation s.cfg d) (singleField s.cfg s.ee sgn d))

/-- XDBL (R127, R128). -/
def execXdbl (sgn : Bool) (hi lo : Desc) (s : State) : Host.Outcome State Fault Refusal :=
  .next (s.command (hi.wf && lo.wf) s.imageReadable fun s =>
    s.extracted (dualViolation s.cfg hi lo) (dualField s.cfg s.ee sgn hi lo))

/-- SEXT (R126): XR must be in 0 .. 2^w − 1. -/
def execSext (w : Word) (s : State) : Host.Outcome State Fault Refusal :=
  .next (s.command (sextWidthOk w) true fun s =>
    if 0 ≤ s.xrInt ∧ s.xrInt < 2 ^ w.toNat then (s.setXr (sextNat w.toNat s.xrInt.toNat)).done
    else s.refuse .badOperand)

/-- The value SCDIV gives, i2f(XR) / pow2(e) (R130); with the default NUM always a number, since XR has 64 bits. -/
def scdivValue (s : State) (e : BitVec 6) : FVal := (i2f s.cfg.num s.xrInt).div s.cfg.num (pow2 s.cfg.num e.toNat)

/-- FR <- v, the free bits being the first draw's (log 6). -/
def State.setFrVal (s : State) (v : FVal) : State := { s with fr := v.toWord (s.free 0), draws := s.draws + 1 }

/-- SCDIV (R130). -/
def execScdiv (e : BitVec 6) (s : State) : Host.Outcome State Fault Refusal :=
  .next (s.command true true fun s => (s.setFrVal (scdivValue s e)).done)

/-- The product of SCMUL, a mathematical integer (R131). -/
def scmulProduct (s : State) (e : BitVec 6) : Int := s.xrInt * 2 ^ e.toNat

/-- A value fits XR (R131, R133). -/
def fitsXr (z : Int) : Bool := decide (-(2 ^ 63) ≤ z) && decide (z < 2 ^ 63)

/-- SCMUL (R131): a product that does not fit is refused with BadOperand. -/
def execScmul (e : BitVec 6) (s : State) : Host.Outcome State Fault Refusal :=
  .next (s.command (scmulExpOk e) true fun s =>
    if fitsXr (scmulProduct s e) then (s.setXr (scmulProduct s e)).done else s.refuse .badOperand)

/-- LDX (R132). -/
def execLdx (n : Word32) (s : State) : Host.Outcome State Fault Refusal :=
  .next (s.command true true fun s => (s.setXr n.toNat).done)

end Sys2Proof.Machine
end

