-- ==== Sys2Proof/Machine/Calibrate.lean ====
section
/-! DEFINITION. CALX, the calibration extractor (42_calibration): a pure function of the image, committed whole. -/

namespace Sys2Proof.Machine

/-! ## The computed arrays -/

/-- `rmax[g]` (R167): divided by the power of two first, by 2047 second. -/
def groupAlpha (c : Config) (ee : Memory Word) (g : Nat) : FVal :=
  ((i2f c.num (fieldInt c ee (.amax g))).div c.num (pow2 c.num (fieldInt c ee (.aexp g) + Config.alphaBias))).div c.num
    (i2f c.num Config.alphaNorm)

/-- `CAL.alpha[p]` (R167). -/
def pixelAlpha (c : Config) (ee : Memory Word) (p : Nat) : FVal :=
  (i2f c.num (fieldInt c ee (.apix p))).mul c.num (groupAlpha c ee (p / Config.alphaGroupPix))

/-- `i2f(delta * 2^scale2 + avg) / pow2(scale1)` (R168, R169); unspecified where a negative scale2 leaves a fraction, of
which i2f takes none (log 19). -/
def driftValue (n : Numerics) (delta scale2 avg scale1 : Int) : FVal :=
  match shiftInt delta scale2 with
  | some z => (i2f n (z + avg)).div n (pow2 n scale1)
  | none => .unspecified

/-- `CAL.kta[p]` (R168). -/
def pixelKta (c : Config) (ee : Memory Word) (p : Nat) : FVal :=
  driftValue c.num (fieldInt c ee (.ktaDelta p)) (fieldInt c ee .ktaScale2) (fieldInt c ee .ktaAvg)
    (fieldInt c ee .ktaScale1)

/-- `CAL.kv[p]` (R169). -/
def pixelKv (c : Config) (ee : Memory Word) (p : Nat) : FVal :=
  driftValue c.num (fieldInt c ee (.kvDelta p)) (fieldInt c ee .kvScale2) (fieldInt c ee .kvAvg)
    (fieldInt c ee .kvScale1)

/-- `CAL.offset[s][p]` (R170), an exact integer; a free one where a negative offScale leaves a fraction (log 19). -/
def pixelOffset (c : Config) (ee : Memory Word) (draw : Nat) (sub : Bool) (p : Nat) : Int :=
  match shiftInt (fieldInt c ee (.offPix sub p)) (fieldInt c ee .offScale) with
  | some z => z + fieldInt c ee .offRef
  | none => Config.freeInt draw

/-! ## Broken pixels -/

/-- Pixel p is broken: its even-subpage offset, alpha and kta fields are all zero, read raw (R176). -/
def broken (c : Config) (ee : Memory Word) (p : Nat) : Bool :=
  rawField c ee (c.row (.offPix false p)).hi == 0 && rawField c ee (c.row (.apix p)).hi == 0
    && rawField c ee (c.row (.ktaDelta p)).hi == 0

/-- The broken pixels, in increasing order (R177). -/
@[irreducible] def brokenList (c : Config) (ee : Memory Word) : List Nat := (List.range Config.npix).filter (broken c ee)

/-- Entry k of brokenPixels: the k-th broken pixel, or the sentinel (R177). -/
def brokenEntry (c : Config) (ee : Memory Word) (k : Nat) : Int :=
  match (brokenList c ee)[k]? with
  | some p => p
  | none => Config.sentinel

/-! ## The extraction -/

/-- DEVSEL (R163). -/
def devSelected (c : Config) (ee : Memory Word) : Bool :=
  match c.devSel with
  | .anyBitSet i m => ee.read i &&& m != 0
  | .always => true
  | .custom k => Config.devSelOf k ee

/-- The contract violation that fieldint of a row raises: its own descriptors' (R161, R162). -/
def fieldViolation (c : Config) (n : RowName) : Option Status := rowViolation c (c.row n)

/-- The contract violation that fieldval of a row raises: its own descriptors' and then, where its mode uses e(r), those of
the exponent's row. That a row of mode NONE does not evaluate its e(r) is the model's choice (DESIGN CHOICE, log 18). -/
def valueViolation (c : Config) (n : RowName) : Option Status :=
  (fieldViolation c n).or <|
    match (c.row n).mode with
    | .none => none
    | .mul => (c.row n).expRow.bind (fieldViolation c)
    | .div => (c.row n).expRow.bind (fieldViolation c)

/-- The first violation of the rows CALX evaluates, if the table is not well-made (R162). The order within a step, and that
a row read by fieldint alone does not evaluate its e(r), are the model's choice (DESIGN CHOICE, log 18). -/
@[irreducible] def tableViolation (c : Config) : Option Status :=
  (valueRows.findSome? (valueViolation c)).or (fieldRows.findSome? (fieldViolation c))

/-- How many free values an extraction may draw (log 6). -/
def calxDraws : Nat := 992

/-- Every field of CAL (R164 to R170, R177); the values the spec leaves open are the draws from d on. -/
def extractAll (c : Config) (ee : Memory Word) (d : Nat) : Calibration where
  kVdd := fieldVal c ee d .kVdd
  vdd25 := fieldVal c ee (d + 1) .vdd25
  kvPTAT := fieldVal c ee (d + 2) .kvPTAT
  ktPTAT := fieldVal c ee (d + 3) .ktPTAT
  vPTAT25 := fieldVal c ee (d + 4) .vPTAT25
  alphaPTAT := fieldVal c ee (d + 5) .alphaPTAT
  gainEE := fieldVal c ee (d + 6) .gainEE
  tgc := fieldVal c ee (d + 7) .tgc
  ksTa := fieldVal c ee (d + 8) .ksTa
  emissivityEE := fieldVal c ee (d + 9) .emissivityEE
  resolutionEE := fieldVal c ee (d + 10) .resolutionEE
  cpAlpha := fieldVal c ee (d + 11) .cpAlpha
  cpOffset := fieldVal c ee (d + 12) .cpOffset
  cpKv := fieldVal c ee (d + 13) .cpKv
  cpKta := fieldVal c ee (d + 14) .cpKta
  ksTo := Memory.ofFn Config.nRange fun k => fieldVal c ee (d + 15 + k) (.ksTo k)
  ct := Memory.ofList (Config.ctFixed.map .int ++ [5, 6, 7].map fun k => fieldVal c ee (d + 23 + k) (.ct k))
  alpha := Memory.ofFn Config.npix fun p => (pixelAlpha c ee p).toWord (Config.freeF (d + 32 + p))
  offset0 := Memory.ofFn Config.npix fun p => pixelOffset c ee (d + 608 + p) false p
  offset1 := Memory.ofFn Config.npix fun p => pixelOffset c ee (d + 800 + p) true p
  kta := Memory.ofFn Config.npix fun p => (pixelKta c ee p).toWord (Config.freeF (d + 224 + p))
  kv := Memory.ofFn Config.npix fun p => (pixelKv c ee p).toWord (Config.freeF (d + 416 + p))
  broken0 := brokenEntry c ee 0
  broken1 := brokenEntry c ee 1

/-- The commit of CALX (R180): every field of CAL, and CAL_VALID. -/
def State.commitCal (s : State) : State :=
  { s with cal := extractAll s.cfg s.ee s.draws, calValid := true, draws := s.draws + calxDraws, status := .ok }

/-- What CALX raises, in the order of its pseudocode: the device-select check, a violation of the table, a third broken
pixel (R160, R162, R163, R177). -/
def calxFailure (c : Config) (ee : Memory Word) : Option Status :=
  if !devSelected c ee then some .unusable
  else (tableViolation c).or (if 2 < (brokenList c ee).length then some .unusable else none)

/-- The pseudocode of CALX (R160). -/
def State.extract (s : State) : State :=
  match calxFailure s.cfg s.ee with
  | some x => s.raise x
  | none => s.commitCal

/-- CALX (R160). -/
def execCalx (s : State) : Host.Outcome State Fault Refusal :=
  .next (s.command true s.mayExtract State.extract)

end Sys2Proof.Machine
end

