-- ==== Sys2Proof/Machine/Compensate.lean ====
section
/-! DEFINITION. TCMP, the temperature compensator (44_compensator): AMB, CALCTO, BPFIX. The skeleton of each formula is the
document's; the sub-formulas it does not print are the spec's printed defaults or opaque functions (log 5). An operation
without a value makes everything computed from it unspecified (R16; log 6). -/

namespace Sys2Proof.Machine

/-! ## Literals of the formulas -/

/-- 1. -/
def fOne (n : Numerics) : FVal := i2f n 1
/-- TA0 = 25 (R9). -/
def fTa0 (n : Numerics) : FVal := i2f n 25
/-- T0K = 273.15 (R9). -/
def fT0K (n : Numerics) : FVal := literal n 27315 100
/-- The nominal supply, 3.3 (R223; 93 G5). -/
def fV0 (n : Numerics) : FVal := literal n 33 10

/-! ## Step 1: supply voltage and ambient temperature -/

/-- F_VDD (R223). -/
def vddFormula (c : Config) (cal : Calibration) (vddraw : Int) (res : Nat) : FVal :=
  match c.fVdd with
  | .printed =>
    let n := c.num
    let rescorr := (cal.resolutionEE.pow2 n).div n (pow2 n res)
    (((rescorr.mul n (i2f n vddraw)).sub n (cal.vdd25.toF n)).div n (cal.kVdd.toF n)).add n (fV0 n)
  | .custom k => (Config.vddOf k vddraw res cal).checked c.num

/-- F_TA (R224). -/
def taFormula (c : Config) (cal : Calibration) (ptat ptatart : Int) (vdd : FVal) : FVal :=
  match c.fTa with
  | .printed =>
    let n := c.num
    let scaled := ((i2f n ptat).mul n (cal.alphaPTAT.toF n)).add n (i2f n ptatart)
    let vptatart := ((i2f n ptat).div n scaled).mul n (pow2 n 18)
    let supply := (fOne n).add n ((cal.kvPTAT.toF n).mul n (vdd.sub n (fV0 n)))
    (((vptatart.div n supply).sub n (cal.vPTAT25.toF n)).div n (cal.ktPTAT.toF n)).add n (fTa0 n)
  | .custom k => (Config.taOf k ptat ptatart vdd cal).checked c.num

/-- vdd of the frame in FB (R222). -/
def frameVdd (c : Config) (cal : Calibration) (fb : Memory Word) : FVal :=
  vddFormula c cal (fbSigned fb c.atVdd) (resram c fb)

/-- ta of the frame in FB (R222). -/
def frameTa (c : Config) (cal : Calibration) (fb : Memory Word) : FVal :=
  taFormula c cal (fbSigned fb c.atPtat) (fbSigned fb c.atPtatArt) (frameVdd c cal fb)

/-- TA <- ta; TA_VALID <- 1 (R222), the free bits being the first draw's. -/
def State.setAmbient (s : State) : State :=
  { s with ta := (frameTa s.cfg s.cal s.fb).toWord (s.free 0), taValid := true, draws := s.draws + 1 }

/-- The pseudocode of AMB (R222). -/
def State.ambient (s : State) : State := s.setAmbient.done

/-- AMB (R222). -/
def execAmb (s : State) : Host.Outcome State Fault Refusal :=
  .next (s.command true s.mayCompensate State.ambient)

/-! ## Steps 2 to 7 -/

/-- `offset × (1 + kta × (ta − 25)) × (1 + kv × (vdd − 3.3))`, the default of F_CPOFF and F_PIXOFF (93 G7). -/
def driftedOffset (n : Numerics) (offset kta kv ta vdd : FVal) : FVal :=
  (offset.mul n ((fOne n).add n (kta.mul n (ta.sub n (fTa0 n))))).mul n
    ((fOne n).add n (kv.mul n (vdd.sub n (fV0 n))))

/-- F_CPOFF (R227). -/
def cpOffFormula (c : Config) (cal : Calibration) (ta vdd : FVal) : FVal :=
  match c.fCpOff with
  | .printed => driftedOffset c.num (cal.cpOffset.toF c.num) (cal.cpKta.toF c.num) (cal.cpKv.toF c.num) ta vdd
  | .custom k => (Config.cpOffOf k ta vdd cal).checked c.num

/-- `CAL.offset[sub][p]` (R228). -/
def offsetOf (cal : Calibration) (sub : Bool) (p : Nat) : Int :=
  if sub then cal.offset1.read p else cal.offset0.read p

/-- F_PIXOFF (R228). -/
def pixOffFormula (c : Config) (cal : Calibration) (p : Nat) (sub : Bool) (ta vdd : FVal) : FVal :=
  match c.fPixOff with
  | .printed => driftedOffset c.num (i2f c.num (offsetOf cal sub p)) (cal.kta.read p).val (cal.kv.read p).val ta vdd
  | .custom k => (Config.pixOffOf k p sub ta vdd cal).checked c.num

/-- F_SX (R231). -/
def sxFormula (c : Config) (ac ir tar k1 : FVal) : FVal :=
  match c.fSx with
  | .printed =>
    let n := c.num
    k1.mul n ((((ac.mul n ac).mul n ac).mul n (ir.add n (ac.mul n tar))).root4 n)
  | .custom k => (Config.sxOf k ac ir tar k1).checked c.num

/-- `CAL.ksTo[k]` as an F value. -/
def ksToF (n : Numerics) (cal : Calibration) (k : Nat) : FVal := (cal.ksTo.read k).toF n

/-- `1 + ksTo[k] × d[k]` with `d[k] = i2f(ct[k+1] − ct[k])` (R236). -/
def chainFactor (n : Numerics) (cal : Calibration) (k : Nat) : FVal :=
  (fOne n).add n ((ksToF n cal k).mul n ((cal.ct.read (k + 1)).subF n (cal.ct.read k)))

/-- acorr[b + m], upwards from the base range (R236). -/
def acorrUp (n : Numerics) (cal : Calibration) : Nat → FVal
  | 0 => fOne n
  | m + 1 => (acorrUp n cal m).mul n (chainFactor n cal (Config.baseRange + m))

/-- acorr[b − m], downwards from the base range (R236). -/
def acorrDown (n : Numerics) (cal : Calibration) : Nat → FVal
  | 0 => fOne n
  | m + 1 => (acorrDown n cal m).div n (chainFactor n cal (Config.baseRange - (m + 1)))

/-- F_ACORR, the chained correction ratio (R236). -/
def acorrFormula (c : Config) (cal : Calibration) (r : Nat) : FVal :=
  match c.fAcorr with
  | .printed =>
    if Config.baseRange ≤ r then acorrUp c.num cal (r - Config.baseRange)
    else acorrDown c.num cal (Config.baseRange - r)
  | .custom k => (Config.acorrOf k r cal).checked c.num

/-- F_DEN2 (R235). -/
def den2Formula (c : Config) (cal : Calibration) (ac : FVal) (r : Nat) (to1 : FVal) : FVal :=
  match c.fDen2 with
  | .printed =>
    let n := c.num
    (ac.mul n (acorrFormula c cal r)).mul n
      ((fOne n).add n ((ksToF n cal r).mul n (to1.sub n ((cal.ct.read r).toF n))))
  | .custom k => (Config.den2Of k ac r to1 cal).checked c.num

/-- The least range from k on whose upper threshold is above to1, of m ranges left (R234); nothing where a comparison
has no outcome. -/
def rangeFrom (n : Numerics) (ct : Memory CalVal) (to1 : FVal) : Nat → Nat → Option Nat
  | k, 0 => some k
  | k, m + 1 =>
    match to1.ltCal n (ct.read (k + 1)) with
    | none => none
    | some true => some k
    | some false => rangeFrom n ct to1 (k + 1) m

/-- The range of a first-pass temperature: least k in 0..6 with to1 < ct[k+1], else 7 (R234). -/
def rangeOf (n : Numerics) (ct : Memory CalVal) (to1 : FVal) : Option Nat := rangeFrom n ct to1 0 (Config.nRange - 1)

/-- The frame-wide values of CALCTO (R225). -/
structure FrameValues where
  vdd : FVal
  ta : FVal
  gain : FVal
  cpir : FVal
  tar : FVal
deriving DecidableEq, Repr

/-- The reflected term (R230). -/
def reflectedTerm (n : Numerics) (ta tr eps : FVal) : FVal :=
  let ta4 := (ta.add n (fT0K n)).pow4 n
  let tr4 := (tr.add n (fT0K n)).pow4 n
  tr4.sub n ((tr4.sub n ta4).div n eps)

/-- gain (R226). -/
def frameGain (c : Config) (cal : Calibration) (fb : Memory Word) : FVal :=
  (cal.gainEE.toF c.num).div c.num (i2f c.num (fbSigned fb c.atGain))

/-- The frame-wide values (R222, R226, R227, R230). -/
def frameValues (c : Config) (cal : Calibration) (fb : Memory Word) (eps tr : FVal) : FrameValues :=
  let vdd := frameVdd c cal fb
  let ta := frameTa c cal fb
  let gain := frameGain c cal fb
  { vdd := vdd
    ta := ta
    gain := gain
    cpir := ((i2f c.num (fbSigned fb c.atCp)).mul c.num gain).sub c.num (cpOffFormula c cal ta vdd)
    tar := reflectedTerm c.num ta tr eps }

/-- The net signal of pixel p (R228). -/
def pixelIr (c : Config) (cal : Calibration) (fb : Memory Word) (eps : FVal) (v : FrameValues) (p : Nat) : FVal :=
  let n := c.num
  ((((i2f n (fbSigned fb p)).mul n v.gain).sub n (pixOffFormula c cal p (frameSub c fb) v.ta v.vdd)).sub n
    ((cal.tgc.toF n).mul n v.cpir)).div n eps

/-- The compensated sensitivity of pixel p (R229). -/
def pixelAc (n : Numerics) (cal : Calibration) (v : FrameValues) (p : Nat) : FVal :=
  ((cal.alpha.read p).val.sub n ((cal.tgc.toF n).mul n (cal.cpAlpha.toF n))).mul n
    ((fOne n).add n ((cal.ksTa.toF n).mul n (v.ta.sub n (fTa0 n))))

/-- The quartic law `root4(ir / den + tar) − 273.15` (R231, R235). -/
def quartic (n : Numerics) (ir den tar : FVal) : FVal := (((ir.div n den).add n tar).root4 n).sub n (fT0K n)

/-- The first-pass temperature (R231). -/
def firstPass (c : Config) (cal : Calibration) (ir ac tar : FVal) : FVal :=
  let n := c.num
  let k1 := ksToF n cal Config.baseRange
  quartic n ir ((ac.mul n ((fOne n).sub n (k1.mul n (fT0K n)))).add n (sxFormula c ac ir tar k1)) tar

/-- The second-pass temperature (R235), in the range of the first (R234). -/
def secondPass (c : Config) (cal : Calibration) (ir ac tar to1 : FVal) : FVal :=
  match rangeOf c.num cal.ct to1 with
  | some r => quartic c.num ir (den2Formula c cal ac r to1) tar
  | none => .unspecified

/-- The temperature of pixel p (R225, steps 4 to 7). -/
def pixelTemp (c : Config) (cal : Calibration) (fb : Memory Word) (eps : FVal) (v : FrameValues) (p : Nat) : FVal :=
  let ir := pixelIr c cal fb eps v p
  let ac := pixelAc c.num cal v p
  secondPass c cal ir ac v.tar (firstPass c cal ir ac v.tar)

/-- TF after steps 2 to 7 on the frame in FB, with the free bits for unspecified pixels. -/
@[irreducible] def frameTemps (c : Config) (cal : Calibration) (fb : Memory Word) (eps tr : FVal) (free : Nat → F32) : Memory FWord :=
  let v := frameValues c cal fb eps tr
  Memory.ofFn Config.npix fun p => (pixelTemp c cal fb eps v p).toWord (free p)

/-- The pseudocode of CALCTO (R225): TA, then all of TF. -/
def State.calculate (s : State) (eps tr : FVal) : State :=
  let t := s.setAmbient
  { t with
    tf := frameTemps t.cfg t.cal t.fb eps tr t.free
    tfValid := true
    draws := t.draws + Config.npix
    status := .ok }

/-- CALCTO (R225); the operands are binary32 words (R93). -/
def execCalcto (eps tr : F32) (s : State) : Host.Outcome State Fault Refusal :=
  .next (s.command true s.mayCompensate fun s =>
    s.calculate (FVal.ofBits s.cfg.num eps) (FVal.ofBits s.cfg.num tr))

/-! ## Step 8: bad-pixel interpolation -/

/-- The value of an interior column (R245): the smoother pair extrapolated, the right one on a tie. -/
def interiorValue (n : Numerics) (l2 l1 r1 r2 : FVal) : FVal :=
  let aR := r1.sub n r2
  let aL := l1.sub n l2
  match aR.absGt n aL with
  | some true => l1.add n aL
  | some false => r1.add n aR
  | none => .unspecified

/-- The value that repairs pixel i (R245); an edge column copies its neighbour as it stands. -/
def repairValue (n : Numerics) (tf : Memory FWord) (i : Nat) (free : F32) : FWord :=
  let c := i % Config.rowW
  if c = 0 then tf.read (i + 1)
  else if c = 15 then tf.read (i - 1)
  else if c = 1 ∨ c = 14 then
    (((tf.read (i - 1)).val.add n (tf.read (i + 1)).val).div n (i2f n 2)).toWord free
  else
    (interiorValue n (tf.read (i - 2)).val (tf.read (i - 1)).val (tf.read (i + 1)).val (tf.read (i + 2)).val).toWord free

/-- One entry of brokenPixels repaired in place (R245, R246). -/
def repairPixel (n : Numerics) (tf : Memory FWord) (i : Nat) (free : F32) : Memory FWord :=
  tf.write i (repairValue n tf i free)

/-- Both entries in order, up to the first sentinel (R245, R246). -/
def repairFrame (n : Numerics) (cal : Calibration) (tf : Memory FWord) (free : Nat → F32) : Memory FWord :=
  if cal.broken0 = Config.sentinel then tf
  else if cal.broken1 = Config.sentinel then repairPixel n tf cal.broken0.toNat (free 0)
  else repairPixel n (repairPixel n tf cal.broken0.toNat (free 0)) cal.broken1.toNat (free 1)

/-- The pseudocode of BPFIX (R245). -/
def State.repair (s : State) : State :=
  { s with tf := repairFrame s.cfg.num s.cal s.tf s.free, draws := s.draws + 2, status := .ok }

/-- BPFIX (R245). -/
def execBpfix (s : State) : Host.Outcome State Fault Refusal :=
  .next (s.command true s.mayRepair State.repair)

end Sys2Proof.Machine
end

