-- ==== Sys2Proof/Machine/FrameReader.lean ====
section
/-! DEFINITION. FRD, the frame reader and the image capture (43_frame_reader): EELD, and FRD as the state machine of rules
R195 to R202, one bus request a step. -/

namespace Sys2Proof.Machine

/-! ## EELD -/

/-- The pseudocode of EELD (R190). It ends with ECCST <- 0 and lists ECCST among the flags written, where 10_state R34 says
"Written by ECCS only": the model follows R190 (DESIGN CHOICE, log 35). -/
def State.capture (s : State) : State :=
  match s.busRead s.cfg.eeAddr Config.eeWords with
  | (none, t) => { t with eeState := .empty }.raise .transportError
  | (some ws, t) => { t with ee := Memory.ofList ws, eeState := .raw, eccst := .clean, status := .ok }

/-- EELD (R190). -/
def execEeld (s : State) : Host.Outcome State Fault Refusal :=
  .next (s.command true s.mayLoad State.capture)

/-! ## The steps of the machine -/

/-- Start (R195). -/
def State.frStart (s : State) : State :=
  { s with fbValid := false, np := 0, att := 0, win := 0, fs := .pollStatus }

/-- The data-ready bit of a status word (R196). -/
def readyBit (c : Config) (w : Word) : Bool := w &&& c.rdyMask != 0

/-- The subpage parity of a status word (R39). -/
def parityBit (c : Config) (w : Word) : Bool := w &&& c.subpMask != 0

/-- The word of a one-word read. -/
def firstWord (ws : List Word) : Word := ws.headD 0

/-- POLL_STATUS once the status word has come (R196). -/
def State.polled (s : State) (w : Word) : State :=
  if readyBit s.cfg w then { s with stw := w, subp := parityBit s.cfg w, fs := .clearFlag }
  else if s.np + 1 = Config.pollMax then { s with stw := w, np := s.np + 1 }.raise .frameTimeout
  else { s with stw := w, np := s.np + 1 }

/-- READ_WINDOWS once a pixel window has come (R198). -/
def State.windowRead (s : State) (ws : List Word) : State :=
  { s with fb := s.fb.writeList (Config.winWords * s.win) ws, win := s.win + 1 }

/-- READ_WINDOWS once the tail window has come (R199). -/
def State.tailRead (s : State) (ws : List Word) : State :=
  { s with fb := s.fb.writeList Config.npix ws, fs := .repoll }

/-- REPOLL once the status word has come (R200). -/
def State.repolled (s : State) (w : Word) : State :=
  let t := { s with stw := w, subp := parityBit s.cfg w, att := s.att + 1 }
  if !readyBit s.cfg w then { t with fs := .readCtrl }
  else if t.att < Config.attMax then { t with fs := .clearFlag }
  else t.raise .frameTimeout

/-- READ_CTRL once the control register has come (R201). -/
def State.ctrlRead (s : State) (w : Word) : State :=
  { s with
    fb := (s.fb.write s.cfg.trailerBase w).write (s.cfg.trailerBase + 1) (if s.subp then 1 else 0)
    fbValid := true
    fs := .idle
    status := .ok }

/-- A step whose request was answered err (R195, R64). -/
def State.busFailed (s : State) : State := s.raise .transportError

/-- One step of the machine (R196 to R201): exactly one bus request, none when IDLE. -/
def State.frStep (s : State) : State :=
  match s.fs with
  | .idle => s
  | .pollStatus =>
    match s.busRead s.cfg.regStatus 1 with
    | (none, t) => t.busFailed
    | (some ws, t) => t.polled (firstWord ws)
  | .clearFlag =>
    match s.busWrite s.cfg.regClear s.cfg.valClear with
    | (false, t) => t.busFailed
    | (true, t) => { t with win := 0, fs := .readWindows }
  | .readWindows =>
    if s.win < Config.nWin then
      match s.busRead (s.cfg.winAddr s.subp s.win) Config.winWords with
      | (none, t) => t.busFailed
      | (some ws, t) => t.windowRead ws
    else
      match s.busRead s.cfg.tailAddr Config.tailWords with
      | (none, t) => t.busFailed
      | (some ws, t) => t.tailRead ws
  | .repoll =>
    match s.busRead s.cfg.regStatus 1 with
    | (none, t) => t.busFailed
    | (some ws, t) => t.repolled (firstWord ws)
  | .readCtrl =>
    match s.busRead s.cfg.regCtrl 1 with
    | (none, t) => t.busFailed
    | (some ws, t) => t.ctrlRead (firstWord ws)

/-- The machine run for at most so many steps, until it is IDLE. -/
def State.frRun : Nat → State → State
  | 0, s => s
  | k + 1, s => if s.fs = .idle then s else State.frRun k s.frStep

/-- The greatest number of bus requests of one acquisition (R203): 5 + 5 × 9 + 1 = 51, so that this many steps
always suffice (log 30). -/
def frMaxSteps : Nat := Config.pollMax + Config.attMax * (Config.nWin + 3) + 1

/-- The pseudocode of FRD: start, then the machine until it is IDLE (R195). -/
def State.acquire (s : State) : State := State.frRun frMaxSteps s.frStart

/-- FRD (R195). -/
def execFrd (s : State) : Host.Outcome State Fault Refusal :=
  .next (s.command true true State.acquire)

end Sys2Proof.Machine
end

