-- ==== Sys2Proof/Machine/Hamming.lean ====
section
/-! DEFINITION. ECC, the Hamming decoder (41_hamming): the word function, ECCW and ECCS. Parity subsets and flip table come
from SYN (R141), whatever it is. -/

namespace Sys2Proof.Machine

/-- The exclusive-or over bit positions 0..15. -/
def xorBits (f : Nat → Bool) : Bool := (List.range 16).foldl (fun a j => a ^^ f j) false

/-- j is in PSET[k]: bit k of SYN(j) is 1 (R141). -/
def inPset (c : Config) (k j : Nat) : Bool := (c.synOf j).testBit k

/-- Parity p_k, k in 0..3, over PSET[k] (R142). -/
def parity (c : Config) (w : Word) (k : Nat) : Bool := xorBits fun j => inPset c k j && w.getLsbD j

/-- The overall parity p_4 over all sixteen bits (R142). -/
def overallParity (w : Word) : Bool := xorBits fun j => w.getLsbD j

/-- syndrome = p0 + 2 p1 + 4 p2 + 8 p3 + 16 p4 (R143). -/
def syndrome (c : Config) (w : Word) : Nat :=
  (parity c w 0).toNat + 2 * (parity c w 1).toNat + 4 * (parity c w 2).toNat + 8 * (parity c w 3).toNat
    + 16 * (overallParity w).toNat

/-- FLIP(s), the position whose syndrome is s (R141). -/
def flipPos (c : Config) (s : Nat) : Option Nat := (List.range 16).find? fun j => c.synOf j == s

/-- The word with the bit of its syndrome flipped; unchanged where no position has the syndrome (log 26). -/
def flipBit (w : Word) : Option Nat → Word
  | some j => w ^^^ BitVec.ofNat 16 (2 ^ j)
  | none => w

/-- The word and status before masking (R144). -/
def correct (c : Config) (w : Word) : Word × EccStatus :=
  if syndrome c w = 0 then (w, .clean)
  else if 16 ≤ syndrome c w then (flipBit w (flipPos c (syndrome c w)), .corrected)
  else (w, .uncorrectable)

/-- `hdec(w)`: the low 11 bits kept in every case (R144, R146), and the status. -/
def hdec (c : Config) (w : Word) : Word × EccStatus := ((correct c w).1 &&& Config.dataMask, (correct c w).2)

/-- ECCW (R147): XR is written in all three cases. -/
def execEccw (w : Word) (s : State) : Host.Outcome State Fault Refusal :=
  .next (s.command true true fun s =>
    { s.setXr (hdec s.cfg w).1.toNat with status := (hdec s.cfg w).2.status })

/-- Whether the scan decodes an index (R140). -/
def scanned (i : Nat) : Bool := decide (Config.eccFirst ≤ i) && decide (i ≤ Config.eccLast)

/-- Element i of the image after the scan (R150). -/
def scanWord (c : Config) (ee : Memory Word) (i : Nat) : Word :=
  if scanned i then (hdec c (ee.read i)).1 else ee.read i

/-- The image after the scan; words are independent, so the order of the scan does not show (R150). -/
@[irreducible] def scanImage (c : Config) (ee : Memory Word) : Memory Word :=
  Memory.ofFn Config.eeWords (scanWord c ee)

/-- The indices the scan visits, in increasing order (R150). -/
def scanIndices : List Nat := (List.range Config.eeWords).filter scanned

/-- The worst status observed across the scan (R150). -/
@[irreducible] def scanWorst (c : Config) (ee : Memory Word) : EccStatus :=
  scanIndices.foldl (fun worst i => worst.max (hdec c (ee.read i)).2) .clean

/-- The pseudocode of ECCS (R150). -/
def State.scan (s : State) : State :=
  { s with
    ee := scanImage s.cfg s.ee
    eccst := scanWorst s.cfg s.ee
    eeState := .decoded
    status := (scanWorst s.cfg s.ee).status }

/-- ECCS (R150, R152). -/
def execEccs (s : State) : Host.Outcome State Fault Refusal :=
  .next (s.command true s.mayScan State.scan)

end Sys2Proof.Machine
end

