-- ==== Sys2Proof/Machine/Facade.lean ====
section
/-! DEFINITION. SEQ, the facade sequencer (45_facade): INIT, RDFRAME, CALCT, GETT, GETAMB, each a composition of the unit
commands' pseudocode (R260). -/

namespace Sys2Proof.Machine

/-! ## INIT -/

/-- WARN.W_CFG <- 1 (R266). -/
def State.warnCfg (s : State) : State := { s with wCfg := true }

/-- CFG_SEQ (R266): read, modify, write in order; at the first err the rest is skipped and W_CFG is set. -/
def State.runCfg : List Rmw → State → State
  | [], s => s
  | m :: rest, s =>
    match s.busRead m.reg 1 with
    | (none, t) => t.warnCfg
    | (some ws, t) =>
      match t.busWrite m.reg ((ws.headD 0 &&& m.andMask) ||| m.orValue) with
      | (false, u) => u.warnCfg
      | (true, u) => State.runCfg rest u

/-- WARN.W_ECC <- 1 if the scan corrected a word (R262, R264). -/
def State.warnEcc (s : State) : State := { s with wEcc := s.wEcc || decide (s.eccst = .corrected) }

/-- The end of INIT: CFG_SEQ, INITED <- 1, OK (R262, R266). -/
def State.configure (s : State) : State := { State.runCfg s.cfg.cfgSeq s with inited := true, status := .ok }

/-- INIT from the extraction on; a status CALX raises ends it (R265). -/
def State.initExtract (s : State) : State :=
  let t := s.extract
  if t.status = .ok then t.configure else t

/-- INIT from the scan on; an uncorrectable word ends it (R264). -/
def State.initScan (s : State) : State :=
  let t := s.scan
  if t.eccst = .uncorrectable then t.raise .uncorrectableError else t.warnEcc.initExtract

/-- INIT from the dump on; a transport error ends it (R262). -/
def State.initDump (s : State) : State :=
  let t := s.capture
  if t.status = .ok then t.initScan else t

/-- The pseudocode of INIT (R262). -/
def State.initialise (s : State) : State :=
  match s.busInit with
  | (false, t) => t.raise .transportError
  | (true, t) => t.initDump

/-- INIT (R262, R267). -/
def execInit (s : State) : Host.Outcome State Fault Refusal :=
  .next (s.command true s.mayInit State.initialise)

/-! ## RDFRAME and CALCT -/

/-- The pseudocode of RDFRAME (R268): FRD, and on success AMB. -/
def State.readFrame (s : State) : State :=
  let t := s.acquire
  if t.status = .ok then t.ambient else t

/-- RDFRAME (R268). -/
def execRdframe (s : State) : Host.Outcome State Fault Refusal :=
  .next (s.command true s.mayReadFrame State.readFrame)

/-- The pseudocode of CALCT (R270): tr is TA as it stands before CALCTO rewrites it. -/
def State.calculateTemps (s : State) : State :=
  (s.calculate (s.emis.val.checked s.cfg.num) (s.ta.val.checked s.cfg.num)).repair

/-- CALCT (R270). -/
def execCalct (s : State) : Host.Outcome State Fault Refusal :=
  .next (s.command true s.mayCalculate State.calculateTemps)

/-! ## GETT and GETAMB -/

/-- GETT (R272): the flag is checked before the index (R293). -/
def execGett (i : Word) (s : State) : Host.Outcome State Fault Refusal :=
  .next (s.command true s.mayGetTemp fun s =>
    if i.toNat < Config.npix then (s.setFr (s.tf.read i.toNat)).done else s.refuse .badOperand)

/-- GETAMB (R273). -/
def execGetamb (s : State) : Host.Outcome State Fault Refusal :=
  .next (s.command true s.mayGetAmbient fun s => (s.setFr s.ta).done)

end Sys2Proof.Machine
end

