-- ==== Sys2Proof/Machine/Dispatch.lean ====
section
/-! DEFINITION. One arm per command, each one direct call of its meaning. -/

namespace Sys2Proof.Machine

def exec (i : Instr) (s : State) : Host.Outcome State Fault Refusal :=
  match i with
  | .xraw d => Sys2Proof.Machine.execXraw d s
  | .xsgl sgn d => Sys2Proof.Machine.execXsgl sgn d s
  | .xdbl sgn hi lo => Sys2Proof.Machine.execXdbl sgn hi lo s
  | .sext w => Sys2Proof.Machine.execSext w s
  | .scdiv e => Sys2Proof.Machine.execScdiv e s
  | .scmul e => Sys2Proof.Machine.execScmul e s
  | .ldx n => Sys2Proof.Machine.execLdx n s
  | .eccw w => Sys2Proof.Machine.execEccw w s
  | .eccs => Sys2Proof.Machine.execEccs s
  | .calx => Sys2Proof.Machine.execCalx s
  | .eeld => Sys2Proof.Machine.execEeld s
  | .frd => Sys2Proof.Machine.execFrd s
  | .amb => Sys2Proof.Machine.execAmb s
  | .calcto eps tr => Sys2Proof.Machine.execCalcto eps tr s
  | .bpfix => Sys2Proof.Machine.execBpfix s
  | .init => Sys2Proof.Machine.execInit s
  | .rdframe => Sys2Proof.Machine.execRdframe s
  | .calct => Sys2Proof.Machine.execCalct s
  | .gett index => Sys2Proof.Machine.execGett index s
  | .getamb => Sys2Proof.Machine.execGetamb s

end Sys2Proof.Machine
end

