-- ==== Sys2Proof/WellFormed.lean ====
section
/-! DEFINITION. Which commands and descriptors are well-formed (30_encoding R96, R102; 60_exceptions R293 check 2). What
the types of the operands already exclude (a start bit above 15, a reserved bit) needs no check here. -/

namespace Sys2Proof

/-- A command that passes every decoding check of R293: its descriptors are well-formed (R96), a SEXT width is in
1..32 and a SCMUL exponent in 0..31. -/
def Instr.wf : Instr → Bool
  | .xraw d => d.wf
  | .xsgl _ d => d.wf
  | .xdbl _ hi lo => hi.wf && lo.wf
  | .sext w => sextWidthOk w
  | .scdiv _ => true
  | .scmul e => scmulExpOk e
  | .ldx _ => true
  | .eccw _ => true
  | .eccs => true
  | .calx => true
  | .eeld => true
  | .frd => true
  | .amb => true
  | .calcto _ _ => true
  | .bpfix => true
  | .init => true
  | .rdframe => true
  | .calct => true
  | .gett _ => true
  | .getamb => true

end Sys2Proof
end

