-- ==== Sys2Proof/Decode.lean ====
section
/-! DEFINITION. From the words of a transaction to a command, and back (30_encoding). `decode` is total and rejects by
name; `encode` gives the words of a command. Both are written from R91 to R93 and the opcode map R100. The range
checks on operand values (R96 width, SEXT width, SCMUL exponent) are `Instr.wf`: a command that fails them decodes, and
its meaning answers IllegalCommand at the same place of R293's order (log 14). -/

namespace Sys2Proof

/-- Why words form no command. Each of these is answered with STATUS <- IllegalCommand (R102, R103; R293 check 2). -/
inductive DecodeError where
  /-- A transaction without even a command word (log 15). -/
  | emptyTransaction
  /-- An OP value R100 does not list (R102). -/
  | unknownOpcode
  /-- A bit set in a field the command does not use, or in CW[18:16] (R102). -/
  | unusedFieldSet
  /-- Fewer or more words after CW than R100 says (R103). -/
  | wrongWordCount
  /-- FDW[31:26] is not 0 (R96, R102). -/
  | reservedDescriptorBits
deriving DecidableEq, Repr

/-! ## The word formats -/

/-- Format CW (R91): OP << 26 | S << 25 | EXP << 19 | IMM. -/
def cw (op : BitVec 6) (s : BitVec 1) (exp : BitVec 6) (imm : Word) : Word32 :=
  op.setWidth 32 <<< 26 ||| s.setWidth 32 <<< 25 ||| exp.setWidth 32 <<< 19 ||| imm.setWidth 32

/-- CW[31:26]. -/
def cwOp (c : Word32) : BitVec 6 := c.extractLsb' 26 6

/-- CW[25]. -/
def cwS (c : Word32) : BitVec 1 := c.extractLsb' 25 1

/-- CW[24:19]. -/
def cwExp (c : Word32) : BitVec 6 := c.extractLsb' 19 6

/-- CW[15:0]. -/
def cwImm (c : Word32) : Word := c.extractLsb' 0 16

/-- The S bit of a flag. -/
def sBit (b : Bool) : BitVec 1 := if b then 1 else 0

/-- Format FDW (R92): WIDTH << 20 | START << 16 | ADDR. -/
def fdw (d : Desc) : Word32 :=
  d.width.setWidth 32 <<< 20 ||| d.start.setWidth 32 <<< 16 ||| d.addr.setWidth 32

/-- The descriptor a word carries; its reserved bits must be 0 (R92, R96). -/
def descOf (f : Word32) : Except DecodeError Desc :=
  if f.extractLsb' 26 6 = 0#6 then
    .ok ⟨f.extractLsb' 20 6, f.extractLsb' 16 4, f.extractLsb' 0 16⟩
  else .error .reservedDescriptorBits

/-! ## The opcode map (R100) -/

/-- The twenty operations. -/
inductive Op where
  | xraw | xsgl | xdbl | sext | scdiv | scmul | ldx | eccw | eccs | calx | eeld | frd | amb | calcto | bpfix
  | init | rdframe | calct | gett | getamb
deriving DecidableEq, Repr

/-- One row of the opcode map: opcode, operation, mnemonic, words after CW, match and mask of CW. -/
structure OpRow where
  code : BitVec 6
  op : Op
  mnemonic : String
  wordsAfter : Nat
  pattern : Word32
  mask : Word32
deriving DecidableEq, Repr

/-- The opcode map, row by row as R100 prints it. -/
def opTable : List OpRow :=
  [⟨0x01, .xraw, "XRAW", 1, 0x04000000, 0xFFFFFFFF⟩,
   ⟨0x02, .xsgl, "XSGL", 1, 0x08000000, 0xFDFFFFFF⟩,
   ⟨0x03, .xdbl, "XDBL", 2, 0x0C000000, 0xFDFFFFFF⟩,
   ⟨0x04, .sext, "SEXT", 0, 0x10000000, 0xFFFF0000⟩,
   ⟨0x05, .scdiv, "SCDIV", 0, 0x14000000, 0xFE07FFFF⟩,
   ⟨0x06, .scmul, "SCMUL", 0, 0x18000000, 0xFE07FFFF⟩,
   ⟨0x07, .ldx, "LDX", 1, 0x1C000000, 0xFFFFFFFF⟩,
   ⟨0x08, .eccw, "ECCW", 0, 0x20000000, 0xFFFF0000⟩,
   ⟨0x09, .eccs, "ECCS", 0, 0x24000000, 0xFFFFFFFF⟩,
   ⟨0x0A, .calx, "CALX", 0, 0x28000000, 0xFFFFFFFF⟩,
   ⟨0x0B, .eeld, "EELD", 0, 0x2C000000, 0xFFFFFFFF⟩,
   ⟨0x10, .frd, "FRD", 0, 0x40000000, 0xFFFFFFFF⟩,
   ⟨0x11, .amb, "AMB", 0, 0x44000000, 0xFFFFFFFF⟩,
   ⟨0x12, .calcto, "CALCTO", 2, 0x48000000, 0xFFFFFFFF⟩,
   ⟨0x13, .bpfix, "BPFIX", 0, 0x4C000000, 0xFFFFFFFF⟩,
   ⟨0x18, .init, "INIT", 0, 0x60000000, 0xFFFFFFFF⟩,
   ⟨0x19, .rdframe, "RDFRAME", 0, 0x64000000, 0xFFFFFFFF⟩,
   ⟨0x1A, .calct, "CALCT", 0, 0x68000000, 0xFFFFFFFF⟩,
   ⟨0x1B, .gett, "GETT", 0, 0x6C000000, 0xFFFF0000⟩,
   ⟨0x1C, .getamb, "GETAMB", 0, 0x70000000, 0xFFFFFFFF⟩]

/-- The row of an opcode. -/
def opRow (code : BitVec 6) : Option OpRow := opTable.find? fun r => r.code == code

/-! ## Decoding -/

/-- A command of one word (R103). -/
def noMoreWords (i : Instr) : List Word32 → Except DecodeError Instr
  | [] => .ok i
  | _ :: _ => .error .wrongWordCount

/-- A command of two words (R103). -/
def oneMoreWord (f : Word32 → Except DecodeError Instr) : List Word32 → Except DecodeError Instr
  | [a] => f a
  | [] => .error .wrongWordCount
  | _ :: _ :: _ => .error .wrongWordCount

/-- A command of three words (R103). -/
def twoMoreWords (f : Word32 → Word32 → Except DecodeError Instr) : List Word32 → Except DecodeError Instr
  | [a, b] => f a b
  | [] => .error .wrongWordCount
  | [_] => .error .wrongWordCount
  | _ :: _ :: _ :: _ => .error .wrongWordCount

/-- The command of an operation whose CW has passed its match, from the words after CW. -/
def buildInstr (op : Op) (c : Word32) (rest : List Word32) : Except DecodeError Instr :=
  match op with
  | .xraw => oneMoreWord (fun f => (descOf f).map .xraw) rest
  | .xsgl => oneMoreWord (fun f => (descOf f).map (.xsgl (cwS c == 1))) rest
  | .xdbl => twoMoreWords (fun f g => (descOf f).bind fun hi => (descOf g).map (.xdbl (cwS c == 1) hi)) rest
  | .sext => noMoreWords (.sext (cwImm c)) rest
  | .scdiv => noMoreWords (.scdiv (cwExp c)) rest
  | .scmul => noMoreWords (.scmul (cwExp c)) rest
  | .ldx => oneMoreWord (fun n => .ok (.ldx n)) rest
  | .eccw => noMoreWords (.eccw (cwImm c)) rest
  | .eccs => noMoreWords .eccs rest
  | .calx => noMoreWords .calx rest
  | .eeld => noMoreWords .eeld rest
  | .frd => noMoreWords .frd rest
  | .amb => noMoreWords .amb rest
  | .calcto => twoMoreWords (fun eps tr => .ok (.calcto eps tr)) rest
  | .bpfix => noMoreWords .bpfix rest
  | .init => noMoreWords .init rest
  | .rdframe => noMoreWords .rdframe rest
  | .calct => noMoreWords .calct rest
  | .gett => noMoreWords (.gett (cwImm c)) rest
  | .getamb => noMoreWords .getamb rest

/-- The command that the words of one transaction form, or why they form none (R90, R100, R102, R103, R104). -/
def decode : List Word32 → Except DecodeError Instr
  | [] => .error .emptyTransaction
  | c :: rest =>
    match opRow (cwOp c) with
    | none => .error .unknownOpcode
    | some r => if c &&& r.mask = r.pattern then buildInstr r.op c rest else .error .unusedFieldSet

/-! ## Encoding -/

/-- The words of a command (R91, R92, R93, R100). -/
def encode : Instr → List Word32
  | .xraw d => [cw 0x01 0 0 0, fdw d]
  | .xsgl sgn d => [cw 0x02 (sBit sgn) 0 0, fdw d]
  | .xdbl sgn hi lo => [cw 0x03 (sBit sgn) 0 0, fdw hi, fdw lo]
  | .sext w => [cw 0x04 0 0 w]
  | .scdiv e => [cw 0x05 0 e 0]
  | .scmul e => [cw 0x06 0 e 0]
  | .ldx n => [cw 0x07 0 0 0, n]
  | .eccw w => [cw 0x08 0 0 w]
  | .eccs => [cw 0x09 0 0 0]
  | .calx => [cw 0x0A 0 0 0]
  | .eeld => [cw 0x0B 0 0 0]
  | .frd => [cw 0x10 0 0 0]
  | .amb => [cw 0x11 0 0 0]
  | .calcto eps tr => [cw 0x12 0 0 0, eps, tr]
  | .bpfix => [cw 0x13 0 0 0]
  | .init => [cw 0x18 0 0 0]
  | .rdframe => [cw 0x19 0 0 0]
  | .calct => [cw 0x1A 0 0 0]
  | .gett i => [cw 0x1B 0 0 i]
  | .getamb => [cw 0x1C 0 0 0]

/-! ## A row of the table as one number -/

/-- How many words follow a command word, from its opcode alone (R90); 0 where no row has the opcode. -/
def wordsAfterCw (c : Word32) : Nat :=
  match opRow (cwOp c) with
  | none => 0
  | some r => r.wordsAfter

/-- The transaction whose bits are w, bit 0 the least significant bit of the first word; every bit from nbits on is 0,
and the opcode says how many words there are. The block takes whole 32-bit words: there is no byte order (R65). -/
def tableTransaction (nbits w : Nat) : List Word32 :=
  let v := w % 2 ^ nbits
  let c := BitVec.ofNat 32 v
  c :: (List.range (wordsAfterCw c)).map fun k => BitVec.ofNat 32 (v / 2 ^ (32 * (k + 1)))

/-- The command the decoder reads from the instruction whose bits are w. -/
def decodeTableWord (nbits w : Nat) : Option Instr :=
  match decode (tableTransaction nbits w) with
  | .ok i => some i
  | .error _ => none

/-! ## Assembler syntax and pseudo-instructions (R105, R106) -/

/-- An operand as the assembler writes it: a number, an F literal given by its binary32 bits, or a parenthesised
descriptor (addr, start, width). -/
inductive AsmOperand where
  | num (n : Nat)
  | float (bits : F32)
  | desc (addr start width : Nat)
deriving DecidableEq, Repr

/-- The assembler line of a command: mnemonic, then operands in the order R105 writes them. -/
def Instr.assembly : Instr → String × List AsmOperand
  | .xraw d => ("XRAW", [.num d.addr.toNat, .num d.start.toNat, .num d.width.toNat])
  | .xsgl sgn d => (if sgn then "XSGL.S" else "XSGL", [.num d.addr.toNat, .num d.start.toNat, .num d.width.toNat])
  | .xdbl sgn hi lo => (if sgn then "XDBL.S" else "XDBL",
      [.desc hi.addr.toNat hi.start.toNat hi.width.toNat, .desc lo.addr.toNat lo.start.toNat lo.width.toNat])
  | .sext w => ("SEXT", [.num w.toNat])
  | .scdiv e => ("SCDIV", [.num e.toNat])
  | .scmul e => ("SCMUL", [.num e.toNat])
  | .ldx n => ("LDX", [.num n.toNat])
  | .eccw w => ("ECCW", [.num w.toNat])
  | .eccs => ("ECCS", [])
  | .calx => ("CALX", [])
  | .eeld => ("EELD", [])
  | .frd => ("FRD", [])
  | .amb => ("AMB", [])
  | .calcto eps tr => ("CALCTO", [.float eps, .float tr])
  | .bpfix => ("BPFIX", [])
  | .init => ("INIT", [])
  | .rdframe => ("RDFRAME", [])
  | .calct => ("CALCT", [])
  | .gett i => ("GETT", [.num i.toNat])
  | .getamb => ("GETAMB", [])

/-- XS11 addr: XSGL.S addr, 0, 11 (R106). -/
def Instr.xs11 (addr : Word) : Instr := .xsgl true ⟨11, 0, addr⟩

/-- XU11 addr: XSGL addr, 0, 11 (R106). -/
def Instr.xu11 (addr : Word) : Instr := .xsgl false ⟨11, 0, addr⟩

/-- GETTEMPS: GETT 0, GETT 1, .. GETT 191 in that order (R106). -/
def Instr.getTemps : List Instr := (List.range 192).map fun i => .gett (BitVec.ofNat 16 i)

end Sys2Proof
end

