-- ==== Sys2Proof/Machine/Fetch.lean ====
section
/-! DEFINITION. What the block does next: the host's next act, decoded. There is no program counter and no instruction fetch
(10_state R36); what takes their place is the list of what the host will still do (log 10). -/

namespace Sys2Proof.Machine

/-- The host's next act. -/
inductive Fetched where
  /-- Nothing to do: the block waits for a command (R302). -/
  | idle
  /-- The reset input (R310). -/
  | reset (s : State)
  /-- A transaction whose words form no command (R102, R103). -/
  | illegal (s : State)
  /-- A command, and the state once its transaction has been taken. -/
  | command (i : Instr) (s : State)
deriving DecidableEq, Repr

/-- The state once the host's next act has been taken from the list. -/
def State.taken (s : State) : State := { s with cmds := s.cmds.tail }

/-- The words of a transaction, decoded. -/
def fetchWords (ws : List Word32) (s : State) : Fetched :=
  match decode ws with
  | .ok i => .command i s
  | .error _ => .illegal s

/-- The host's next act. -/
def fetch (s : State) : Fetched :=
  match s.cmds with
  | [] => .idle
  | .reset :: _ => .reset s.taken
  | .transaction ws :: _ => fetchWords ws s.taken

/-- The answer to a transaction that forms no command: Halted when FAULT = 1 (R290), else IllegalCommand (R102, R293). -/
def State.answerIllegal (s : State) : State := s.command false true State.done

/-- The host's acts with one transaction put before them. -/
def State.withTransaction (s : State) (ws : List Word32) : State := { s with cmds := .transaction ws :: s.cmds }

end Sys2Proof.Machine
end

