-- ==== Sys2Proof/Machine/Step.lean ====
section
/-! DEFINITION. One step: the host's next act, answered. -/

namespace Sys2Proof.Machine

/-- One step. With nothing to do the block waits and nothing changes (R302). -/
def step (s : State) : Host.Outcome State Fault Refusal :=
  match fetch s with
  | .idle => .next s
  | .reset t => .next t.hostReset
  | .illegal t => .next t.answerIllegal
  | .command i t => exec i t

/-- s with the instruction whose bits are w as the host's next transaction, before whatever else the host will do
(log 10). -/
def State.withFetchWord (s : State) (nbits w : Nat) : State := s.withTransaction (tableTransaction nbits w)

end Sys2Proof.Machine
end

