-- ==== Sys2Proof/Safety.lean ====
section
/-! DEFINITION. What counts as a safe state and run, in the terms the statements use: the invariant every step keeps, and
the preconditions of the commands as the spec's table lists them. -/

namespace Sys2Proof.Machine

/-- The CAL arrays are in canonical form and no longer than R60 says. -/
def calMemoryOk (c : Calibration) : Bool :=
  (c.ksTo.wf && c.ksTo.below 8) && (c.ct.wf && c.ct.below 8) && (c.alpha.wf && c.alpha.below 192)
    && (c.offset0.wf && c.offset0.below 192) && (c.offset1.wf && c.offset1.below 192)
    && (c.kta.wf && c.kta.below 192) && (c.kv.wf && c.kv.below 192)

/-- Every address space is in canonical form and lists no index the spec says does not exist (R60). -/
def State.memoryOk (s : State) : Bool :=
  (s.ee.wf && s.ee.below 832) && (s.fb.wf && s.fb.below 834) && (s.tf.wf && s.tf.below 192) && calMemoryOk s.cal

/-- An entry of brokenPixels (R10, R178): a pixel, or the sentinel. -/
def brokenEntryOk (b : Int) : Prop := (0 ≤ b ∧ b < 192) ∨ b = 0xFFFF

/-- brokenPixels as R26 and R178 say: each entry a pixel or the sentinel, a sentinel first only if none follows, two
pixels in increasing order. -/
def brokenPixelsOk (c : Calibration) : Prop :=
  brokenEntryOk c.broken0 ∧ brokenEntryOk c.broken1
    ∧ (c.broken0 = 0xFFFF → c.broken1 = 0xFFFF)
    ∧ (c.broken0 ≠ 0xFFFF → c.broken1 ≠ 0xFFFF → c.broken0 < c.broken1)

/-- The invariant: what is true of the block between commands. -/
structure State.Inv (s : State) : Prop where
  /-- Canonical memories within their sizes (R60). -/
  memory : s.memoryOk = true
  /-- Between commands FS = IDLE (R36). -/
  idle : s.fs = .idle
  /-- NP in 0..5 (R38). -/
  np_le : s.np ≤ 5
  /-- ATT in 0..5 (R38). -/
  att_le : s.att ≤ 5
  /-- WIN in 0..6 (R38). -/
  win_le : s.win ≤ 6
  /-- INITED = 1 only once CAL_VALID = 1 (R262). -/
  inited_cal : s.inited = true → s.calValid = true
  /-- CAL_VALID = 1 only with an image (R313). -/
  cal_image : s.calValid = true → s.eeState ≠ .empty
  /-- TA_VALID = 1 only once CAL_VALID = 1 (R291). -/
  ta_cal : s.taValid = true → s.calValid = true
  /-- TF_VALID = 1 only once TA_VALID = 1 (R225). -/
  tf_ta : s.tfValid = true → s.taValid = true
  /-- After a scan every decoded word is below 2048 (R146). -/
  decoded_words : s.eeState = .decoded → ∀ i, 16 ≤ i → i ≤ 831 → (s.ee.read i).toNat < 2048
  /-- A captured image that is not decoded has no scan result (R190; log 35). -/
  raw_clean : s.eeState = .raw → s.eccst = .clean
  /-- brokenPixels of a valid CAL (R26, R178). -/
  broken_pixels : s.calValid = true → brokenPixelsOk s.cal
  /-- The trailer of a valid frame holds a parity, 0 or 1 (R21). -/
  trailer_parity : s.fbValid = true →
    s.fb.read (s.cfg.trailerBase + 1) = 0 ∨ s.fb.read (s.cfg.trailerBase + 1) = 1
  /-- FAULT = 1 exactly when the last status is a contract violation or Halted (R286, R290). -/
  fault_status : s.faulted = true ↔
    s.status = .addressOutOfRange ∨ s.status = .fieldTooWide ∨ s.status = .halted

/-- The host's next act is a transaction with these words. -/
def State.offers (s : State) (ws : List Word32) : Prop := ∃ rest, s.cmds = .transaction ws :: rest

end Sys2Proof.Machine

namespace Sys2Proof

/-- What a command requires of the flags, row by row as R291 lists it. -/
def Instr.requires (i : Instr) (s : Machine.State) : Prop :=
  match i with
  | .xraw _ => s.eeState = .raw ∨ s.eeState = .decoded
  | .xsgl _ _ => s.eeState = .raw ∨ s.eeState = .decoded
  | .xdbl _ _ _ => s.eeState = .raw ∨ s.eeState = .decoded
  | .sext _ => True
  | .scdiv _ => True
  | .scmul _ => True
  | .ldx _ => True
  | .eccw _ => True
  | .eccs => s.eeState = .raw
  | .calx => (s.eeState = .raw ∨ s.eeState = .decoded) ∧ s.calValid = false
  | .eeld => s.calValid = false
  | .frd => True
  | .amb => s.fbValid = true ∧ s.calValid = true
  | .calcto _ _ => s.fbValid = true ∧ s.calValid = true
  | .bpfix => s.tfValid = true ∧ s.calValid = true
  | .init => s.inited = false ∧ s.calValid = false
  | .rdframe => s.calValid = true
  | .calct => s.calValid = true ∧ s.fbValid = true ∧ s.taValid = true
  | .gett _ => s.tfValid = true
  | .getamb => s.taValid = true

end Sys2Proof
end

