-- ==== Sys2Proof/Certificates/Slice0/Obligations.lean ====
section
/-! DEFINITION. The statements for the provers, after the spec's numbered rules. `Sys2Proof.Spec` holds the words the
statements use, written from the rules and not from the model's own definitions; the statements follow it. -/

namespace Sys2Proof.Spec

open Machine

/-! ## Words of the statements -/

/-! ### Encoding (30_encoding) -/

/-- The rows of R100: match, mask, words after CW. -/
def commandWords : List (Word32 × Word32 × Nat) :=
  [(0x04000000, 0xFFFFFFFF, 1), (0x08000000, 0xFDFFFFFF, 1), (0x0C000000, 0xFDFFFFFF, 2),
   (0x10000000, 0xFFFF0000, 0), (0x14000000, 0xFE07FFFF, 0), (0x18000000, 0xFE07FFFF, 0),
   (0x1C000000, 0xFFFFFFFF, 1), (0x20000000, 0xFFFF0000, 0), (0x24000000, 0xFFFFFFFF, 0),
   (0x28000000, 0xFFFFFFFF, 0), (0x2C000000, 0xFFFFFFFF, 0), (0x40000000, 0xFFFFFFFF, 0),
   (0x44000000, 0xFFFFFFFF, 0), (0x48000000, 0xFFFFFFFF, 2), (0x4C000000, 0xFFFFFFFF, 0),
   (0x60000000, 0xFFFFFFFF, 0), (0x64000000, 0xFFFFFFFF, 0), (0x68000000, 0xFFFFFFFF, 0),
   (0x6C000000, 0xFFFF0000, 0), (0x70000000, 0xFFFFFFFF, 0)]

/-- A descriptor word that is not well-formed: FDW[31:26] ≠ 0, or WIDTH outside 1..32 (R96). -/
def badDescriptor (f : Word32) : Prop :=
  f.toNat / 2 ^ 26 ≠ 0 ∨ f.toNat / 2 ^ 20 % 64 = 0 ∨ 32 < f.toNat / 2 ^ 20 % 64

/-- The words c, rest are no command (R102, R103): CW matches no row; or the count of words after it is not its row's;
or OP is that of XRAW, XSGL or XDBL and a descriptor is not well-formed. -/
def formsNoCommand (c : Word32) (rest : List Word32) : Prop :=
  (∀ row ∈ commandWords, c &&& row.2.1 ≠ row.1)
    ∨ (∃ row ∈ commandWords, c &&& row.2.1 = row.1 ∧ rest.length ≠ row.2.2)
    ∨ (1 ≤ c.toNat / 2 ^ 26 ∧ c.toNat / 2 ^ 26 ≤ 3 ∧ ∃ f ∈ rest, badDescriptor f)

/-! ### Fields (40_bitfield) -/

/-- A well-formed descriptor (R96). -/
def wellFormed (d : Desc) : Prop := 1 ≤ d.width.toNat ∧ d.width.toNat ≤ 32

/-- The address lies outside EE_ADDR .. EE_ADDR + 831 (R123). -/
def outOfImage (c : Config) (a : Word) : Prop := a.toNat < c.eeAddr.toNat ∨ c.eeAddr.toNat + 831 < a.toNat

/-- `raw(d)` as R122 writes it: shift, then mask. -/
def raw (c : Config) (ee : Memory Word) (d : Desc) : Nat :=
  ((ee.read (d.addr.toNat - c.eeAddr.toNat)).toNat >>> d.start.toNat) &&& (2 ^ d.width.toNat - 1)

/-- `sext_n(v)` (R13): v where bit n − 1 is 0, else v − 2^n. -/
def sext (n v : Nat) : Int := if v / 2 ^ (n - 1) % 2 = 1 then (v : Int) - 2 ^ n else v

/-- `(rh << lo.WIDTH) | rl` (R128). -/
def joined (c : Config) (ee : Memory Word) (hi lo : Desc) : Nat :=
  (raw c ee hi <<< lo.width.toNat) ||| raw c ee lo

/-- The state a contract violation leaves: STATUS, FAULT = 1, FS = IDLE (R284, R286). -/
def violated (s : State) (x : Status) : State := { s with status := x, faulted := true, fs := .idle }

/-- A result in XR: the command answers OK with XR holding the integer z and nothing else changed. -/
def givesXr (i : Instr) (s : State) (z : Int) : Prop :=
  ∃ x : BitVec 64, x.toInt = z ∧ exec i s = .next { s with xr := x, status := .ok }

/-- The checks of a command that is not halted: refused with IllegalCommand where its words are not legal, with BadState
where its row of R291 does not hold (R285, R293), else `effect`. -/
def checked (i : Instr) (s : State) (legal pre effect : Prop) : Prop :=
  (¬ legal → exec i s = .next { s with status := .illegalCommand })
    ∧ (legal → ¬ pre → exec i s = .next { s with status := .badState })
    ∧ (legal → pre → effect)

/-! ### The checks (60_exceptions) -/

/-- An operand value outside what the rule accepts (R126, R131, R272). -/
def badOperand (i : Instr) (s : State) : Prop :=
  match i with
  | .sext w => s.xr.toInt < 0 ∨ 2 ^ w.toNat ≤ s.xr.toInt
  | .scmul e => s.xr.toInt * 2 ^ e.toNat < -(2 ^ 63) ∨ 2 ^ 63 ≤ s.xr.toInt * 2 ^ e.toNat
  | .gett k => 191 < k.toNat
  | _ => False

/-- The first check that fails, in R293's order, and its status. -/
def refusedWith (i : Instr) (s : State) (x : Status) : Prop :=
  (s.faulted = true ∧ x = .halted)
    ∨ (s.faulted = false ∧ i.wf = false ∧ x = .illegalCommand)
    ∨ (s.faulted = false ∧ i.wf = true ∧ ¬ i.requires s ∧ x = .badState)
    ∨ (s.faulted = false ∧ i.wf = true ∧ i.requires s ∧ badOperand i s ∧ x = .badOperand)

/-- The statuses R280's table lets a command raise, beside the four refusals and OK. -/
def mayRaise (i : Instr) : List Status :=
  match i with
  | .xraw _ => [.addressOutOfRange]
  | .xsgl _ _ => [.addressOutOfRange]
  | .xdbl _ _ _ => [.addressOutOfRange, .fieldTooWide]
  | .sext _ => []
  | .scdiv _ => []
  | .scmul _ => []
  | .ldx _ => []
  | .eccw _ => [.correctedError, .uncorrectableError]
  | .eccs => [.correctedError, .uncorrectableError]
  | .calx => [.unusable, .addressOutOfRange, .fieldTooWide]
  | .eeld => [.transportError]
  | .frd => [.transportError, .frameTimeout]
  | .amb => []
  | .calcto _ _ => []
  | .bpfix => []
  | .init => [.uncorrectableError, .unusable, .transportError, .addressOutOfRange, .fieldTooWide]
  | .rdframe => [.transportError, .frameTimeout]
  | .calct => []
  | .gett _ => []
  | .getamb => []

/-- BadOperand is raised by SEXT, SCMUL and GETT (R280). -/
def takesOperand (i : Instr) : Prop :=
  match i with
  | .sext _ => True
  | .scmul _ => True
  | .gett _ => True
  | _ => False

/-! ### The Hamming code (41_hamming) -/

/-- The word with only bit j set. -/
def bit (j : Nat) : Word := BitVec.ofNat 16 (2 ^ j)

/-- The syndrome: the exclusive-or of SYN(j) over every j with w[j] = 1 (R143). -/
def syn (c : Config) (w : Word) : Nat :=
  ((List.range 16).filter fun j => w.getLsbD j).foldl (fun a j => a ^^^ c.synOf j) 0

/-- `hdec(w)` gives the value v and the status st (R144). -/
def hdecGives (c : Config) (w v : Word) (st : EccStatus) : Prop :=
  if syn c w = 0 then v = w &&& 0x07FF ∧ st = .clean
  else if 16 ≤ syn c w then (∃ j, j < 16 ∧ c.synOf j = syn c w ∧ v = (w ^^^ bit j) &&& 0x07FF) ∧ st = .corrected
  else v = w &&& 0x07FF ∧ st = .uncorrectable

/-- The status a decode result is reported as (R147, R150). -/
def reported : EccStatus → Status
  | .clean => .ok
  | .corrected => .correctedError
  | .uncorrectable => .uncorrectableError

/-- Some scanned word of the image is uncorrectable: its syndrome is in 1..15. -/
def someUncorrectable (c : Config) (ee : Memory Word) : Prop :=
  ∃ i, 16 ≤ i ∧ i ≤ 831 ∧ 1 ≤ syn c (ee.read i) ∧ syn c (ee.read i) ≤ 15

/-- Every scanned word of the image is valid: its syndrome is 0. -/
def allValid (c : Config) (ee : Memory Word) : Prop := ∀ i, 16 ≤ i → i ≤ 831 → syn c (ee.read i) = 0

/-- The worst status across the scan (R150). -/
def isWorst (c : Config) (ee : Memory Word) (worst : EccStatus) : Prop :=
  (worst = .uncorrectable ↔ someUncorrectable c ee) ∧ (worst = .clean ↔ allValid c ee)

/-! ### Calibration (42_calibration) -/

/-- `fieldint(r)` of row n (R161): the XSGL result of its descriptor, or the XDBL result of its two (R125, R127). -/
def fieldint (c : Config) (ee : Memory Word) (n : RowName) : Int :=
  match (c.row n).lo with
  | none =>
    if (c.row n).signed then sext (c.row n).hi.width.toNat (raw c ee (c.row n).hi) else raw c ee (c.row n).hi
  | some lo =>
    if (c.row n).signed then sext ((c.row n).hi.width.toNat + lo.width.toNat) (joined c ee (c.row n).hi lo)
    else joined c ee (c.row n).hi lo

/-- `e(r)` of row n (R161): a constant, or another row's field plus a bias. -/
def expOf (c : Config) (ee : Memory Word) (n : RowName) : Int :=
  match (c.row n).exp with
  | .const e => e
  | .ofRow m bias => fieldint c ee m + bias

/-- `z * 2^e` is the integer x. -/
def scaled (z e x : Int) : Prop := if 0 ≤ e then x = z * 2 ^ e.toNat else x * 2 ^ (-e).toNat = z

/-- `fieldval(r)` is v (R161): an exact integer for modes NONE and MUL (R25), an F value for DIV. Where the product of a MUL
row is no integer the spec does not state which integer it is (log 19). -/
def fieldIs (c : Config) (ee : Memory Word) (n : RowName) (v : CalVal) : Prop :=
  match (c.row n).mode with
  | .none => v = .int (fieldint c ee n)
  | .mul => ∃ y, v = .int y ∧ ∀ x, scaled (fieldint c ee n) (expOf c ee n) x → y = x
  | .div => ∃ w, v = .flt w ∧ w.val = (i2f c.num (fieldint c ee n)).div c.num (pow2 c.num (expOf c ee n))

/-- Pixel p is broken (R176). -/
def isBroken (c : Config) (ee : Memory Word) (p : Nat) : Prop :=
  raw c ee (c.row (.offPix false p)).hi = 0 ∧ raw c ee (c.row (.apix p)).hi = 0
    ∧ raw c ee (c.row (.ktaDelta p)).hi = 0

/-- L lists the broken pixels in increasing order. -/
def listsBroken (c : Config) (ee : Memory Word) (L : List Nat) : Prop :=
  L.Pairwise (· < ·) ∧ ∀ p, p ∈ L ↔ p < 192 ∧ isBroken c ee p

/-- CALX may run: not halted, and its row of R291 holds. -/
def calxAccepted (s : State) : Prop :=
  s.faulted = false ∧ (s.eeState = .raw ∨ s.eeState = .decoded) ∧ s.calValid = false

/-- A row's own descriptors break the contract: combined width above 32, or an address outside the image (R162). -/
def rowViolates (c : Config) (r : FdRow) : Prop :=
  match r.lo with
  | none => outOfImage c r.hi.addr
  | some lo => 32 < r.hi.width.toNat + lo.width.toNat ∨ outOfImage c r.hi.addr ∨ outOfImage c lo.addr

/-- CALX reads the row by fieldval (R164, R165, R166). -/
def readByFieldval : RowName → Prop
  | .kVdd => True
  | .vdd25 => True
  | .kvPTAT => True
  | .ktPTAT => True
  | .vPTAT25 => True
  | .alphaPTAT => True
  | .gainEE => True
  | .tgc => True
  | .ksTa => True
  | .emissivityEE => True
  | .resolutionEE => True
  | .cpAlpha => True
  | .cpOffset => True
  | .cpKv => True
  | .cpKta => True
  | .ksTo k => k < 8
  | .ct k => 5 ≤ k ∧ k ≤ 7
  | _ => False

/-- CALX reads the row by fieldint (R167 to R170). -/
def readByFieldint : RowName → Prop
  | .aexp g => g < 6
  | .amax g => g < 6
  | .apix q => q < 192
  | .ktaAvg => True
  | .ktaScale1 => True
  | .ktaScale2 => True
  | .ktaDelta q => q < 192
  | .kvAvg => True
  | .kvScale1 => True
  | .kvScale2 => True
  | .kvDelta q => q < 192
  | .offScale => True
  | .offRef => True
  | .offPix _ q => q < 192
  | _ => False

/-- Evaluating row n meets a contract violation: its own or, for a row read by fieldval whose mode uses e(r), that of the
row its exponent comes from (R161, R162; that no other exponent's row is evaluated is log 18's choice). -/
def rowFails (c : Config) (n : RowName) : Prop :=
  ((readByFieldval n ∨ readByFieldint n) ∧ rowViolates c (c.row n))
    ∨ (readByFieldval n ∧ (c.row n).mode ≠ .none
      ∧ ∃ m bias, (c.row n).exp = .ofRow m bias ∧ rowViolates c (c.row m))

/-! ### The frame reader (43_frame_reader), as R204's summary has it -/

/-- One bus request: its words, or the command's end with TransportError. -/
def request (s : State) (q : BusReq) (n : Nat) : Except State (List Word × State) :=
  match s.wordsAnswered n with
  | none => .error { s.asked q with status := .transportError, fs := .idle }
  | some ws => .ok (ws, s.asked q)

/-- The end of an acquisition with FrameTimeout. -/
def timedOut (s : State) : State := { s with status := .frameTimeout, fs := .idle }

/-- The data-ready bit of a status word. -/
def ready (c : Config) (w : Word) : Prop := w &&& c.rdyMask ≠ 0

/-- The subpage parity of a status word (R39). -/
def parityOf (c : Config) (w : Word) : Bool := decide (w &&& c.subpMask ≠ 0)

/-- The first loop of R204, with so many polls left. -/
def polls : Nat → State → Except State State
  | 0, s => .error (timedOut s)
  | n + 1, s =>
    match request s (.read s.cfg.sa s.cfg.regStatus 1) 1 with
    | .error t => .error t
    | .ok (ws, t) =>
      if ws.headD 0 &&& t.cfg.rdyMask ≠ 0 then
        .ok { t with stw := ws.headD 0, subp := parityOf t.cfg (ws.headD 0) }
      else polls n { t with stw := ws.headD 0, np := t.np + 1 }

/-- The windows of a pass, with so many left. -/
def windows : Nat → State → Except State State
  | 0, s => .ok s
  | n + 1, s =>
    match request s (.read s.cfg.sa (s.cfg.winAddr s.subp s.win) 32) 32 with
    | .error t => .error t
    | .ok (ws, t) => windows n { t with fb := t.fb.writeList (32 * t.win) ws, win := t.win + 1 }

/-- The tail window and the status read that end a pass. -/
def passEnd (s : State) : Except State State :=
  match request s (.read s.cfg.sa s.cfg.tailAddr 48) 48 with
  | .error t => .error t
  | .ok (ws, t) =>
    let u := { t with fb := t.fb.writeList 192 ws }
    match request u (.read u.cfg.sa u.cfg.regStatus 1) 1 with
    | .error v => .error v
    | .ok (ws', v) =>
      .ok { v with stw := ws'.headD 0, subp := parityOf v.cfg (ws'.headD 0), att := v.att + 1 }

/-- One pass: the CLEAR_FLAG write, six windows, the tail, the status read. -/
def pass (s : State) : Except State State :=
  match request s (.write s.cfg.sa s.cfg.regClear s.cfg.valClear) 0 with
  | .error t => .error t
  | .ok (_, t) =>
    match windows 6 { t with win := 0 } with
    | .error u => .error u
    | .ok u => passEnd u

/-- The second loop of R204, with so many passes left. -/
def passes : Nat → State → Except State State
  | 0, s => .error (timedOut s)
  | n + 1, s =>
    match pass s with
    | .error t => .error t
    | .ok t => if t.stw &&& t.cfg.rdyMask = 0 then .ok t else passes n t

/-- The control read and the trailer. -/
def trailer (s : State) : Except State State :=
  match request s (.read s.cfg.sa s.cfg.regCtrl 1) 1 with
  | .error t => .error t
  | .ok (ws, t) =>
    .ok { t with
      fb := (t.fb.write t.cfg.trailerBase (ws.headD 0)).write (t.cfg.trailerBase + 1) (if t.subp then 1 else 0)
      fbValid := true
      fs := .idle
      status := .ok }

/-- One acquisition as R204 summarises it. -/
def acquisition (s : State) : State :=
  match polls 5 { s with fbValid := false, np := 0, att := 0, win := 0 } with
  | .error t => t
  | .ok t =>
    match passes 5 t with
    | .error u => u
    | .ok u =>
      match trailer u with
      | .error v => v
      | .ok v => v

/-- The transport will answer an acquisition of one pass: status word st (ready), the windows W and the tail, status word
st' (not ready), control register ctrl; then it goes on with `more`. -/
structure onePass (s : State) (st : Word) (W : List (List Word)) (tail : List Word) (st' ctrl : Word)
    (more : List BusAnswer) : Prop where
  script : s.script =
    .ok [st] :: .ok [] :: W.map .ok ++ .ok tail :: .ok [st'] :: .ok [ctrl] :: more
  ready : st &&& s.cfg.rdyMask ≠ 0
  windows : W.length = 6
  windowWords : ∀ ws ∈ W, ws.length = 32
  tailWords : tail.length = 48
  notReady : st' &&& s.cfg.rdyMask = 0

/-- The requests of an acquisition of one pass on subpage sub, newest first. -/
def onePassRequests (c : Config) (sub : Bool) : List BusReq :=
  [.read c.sa c.regCtrl 1, .read c.sa c.regStatus 1, .read c.sa c.tailAddr 48,
   .read c.sa (c.winAddr sub 5) 32, .read c.sa (c.winAddr sub 4) 32, .read c.sa (c.winAddr sub 3) 32,
   .read c.sa (c.winAddr sub 2) 32, .read c.sa (c.winAddr sub 1) 32, .read c.sa (c.winAddr sub 0) 32,
   .write c.sa c.regClear c.valClear, .read c.sa c.regStatus 1]

/-- What FB holds after an acquisition of one pass: the windows, the tail, the trailer, every other word as before. -/
def holdsFrame (c : Config) (old new : Memory Word) (W : List (List Word)) (tail : List Word) (ctrl : Word)
    (sub : Bool) : Prop :=
  (∀ k j, k < 6 → j < 32 → new.read (32 * k + j) = (W.getD k []).getD j 0)
    ∧ (∀ j, j < 48 → new.read (192 + j) = tail.getD j 0)
    ∧ new.read c.trailerBase = ctrl
    ∧ new.read (c.trailerBase + 1) = (if sub then 1 else 0)
    ∧ ∀ i, 240 ≤ i → i ≠ c.trailerBase → i ≠ c.trailerBase + 1 → new.read i = old.read i

/-! ### Temperatures (44_compensator) -/

/-- `i2f(s16(FB[i]))` (R220). -/
def count (s : State) (i : Nat) : FVal := i2f s.cfg.num (s.fb.read i).toInt

/-- `resram` (R221). -/
def adcResolution (s : State) : Nat := (s.fb.read s.cfg.trailerBase &&& s.cfg.resMask).toNat >>> s.cfg.resShift

/-- vdd: F_VDD of the supply counter, resram and CAL (R222). -/
def vdd (s : State) : FVal := vddFormula s.cfg s.cal (s.fb.read s.cfg.atVdd).toInt (adcResolution s)

/-- ta: F_TA of PTAT, PTAT_ART, vdd and CAL (R222). -/
def ta (s : State) : FVal :=
  taFormula s.cfg s.cal (s.fb.read s.cfg.atPtat).toInt (s.fb.read s.cfg.atPtatArt).toInt (vdd s)

/-- 273.15 in NUM. -/
def kelvin (n : Numerics) : FVal := literal n 27315 100

/-- `x^4`, by two squarings (R230). -/
def fourth (n : Numerics) (x : FVal) : FVal := (x.mul n x).mul n (x.mul n x)

/-- The reflected term (R230). -/
def tar (n : Numerics) (ta tr eps : FVal) : FVal :=
  (fourth n (tr.add n (kelvin n))).sub n
    (((fourth n (tr.add n (kelvin n))).sub n (fourth n (ta.add n (kelvin n)))).div n eps)

/-- gain (R226). -/
def gain (s : State) : FVal := (s.cal.gainEE.toF s.cfg.num).div s.cfg.num (count s s.cfg.atGain)

/-- cpir (R227). -/
def cpir (s : State) : FVal :=
  ((count s s.cfg.atCp).mul s.cfg.num (gain s)).sub s.cfg.num (cpOffFormula s.cfg s.cal (ta s) (vdd s))

/-- The subpage in the trailer (R220). -/
def sub (s : State) : Bool := decide (s.fb.read (s.cfg.trailerBase + 1) ≠ 0)

/-- The net signal of pixel p (R228). -/
def ir (s : State) (eps : FVal) (p : Nat) : FVal :=
  let n := s.cfg.num
  ((((count s p).mul n (gain s)).sub n (pixOffFormula s.cfg s.cal p (sub s) (ta s) (vdd s))).sub n
    ((s.cal.tgc.toF n).mul n (cpir s))).div n eps

/-- The compensated sensitivity of pixel p (R229). -/
def ac (s : State) (p : Nat) : FVal :=
  let n := s.cfg.num
  ((s.cal.alpha.read p).val.sub n ((s.cal.tgc.toF n).mul n (s.cal.cpAlpha.toF n))).mul n
    ((i2f n 1).add n ((s.cal.ksTa.toF n).mul n ((ta s).sub n (i2f n 25))))

/-- `root4(ir / den + tar) − 273.15` (R231, R235). -/
def radiometric (n : Numerics) (ir den tar : FVal) : FVal := (((ir.div n den).add n tar).root4 n).sub n (kelvin n)

/-- The first-pass denominator (R231), k1 = ksTo[1]. -/
def den1 (s : State) (eps tr : FVal) (p : Nat) : FVal :=
  let n := s.cfg.num
  ((ac s p).mul n ((i2f n 1).sub n (((s.cal.ksTo.read 1).toF n).mul n (kelvin n)))).add n
    (sxFormula s.cfg (ac s p) (ir s eps p) (tar n (ta s) tr eps) ((s.cal.ksTo.read 1).toF n))

/-- The first-pass temperature (R231). -/
def to1 (s : State) (eps tr : FVal) (p : Nat) : FVal :=
  radiometric s.cfg.num (ir s eps p) (den1 s eps tr p) (tar s.cfg.num (ta s) tr eps)

/-- r is the range of the first-pass temperature x: the least k in 0..6 with x < ct[k+1], else 7 (R234). -/
def isRange (n : Numerics) (ct : Memory CalVal) (x : FVal) (r : Nat) : Prop :=
  r ≤ 7 ∧ (∀ k, k < r → x.ltCal n (ct.read (k + 1)) = some false)
    ∧ (r < 7 → x.ltCal n (ct.read (r + 1)) = some true)

/-- v repairs pixel i of the frame f (R245). -/
def repairs (n : Numerics) (f : Nat → FWord) (i : Nat) (v : FWord) : Prop :=
  if i % 16 = 0 then v = f (i + 1)
  else if i % 16 = 15 then v = f (i - 1)
  else if i % 16 = 1 ∨ i % 16 = 14 then v.val = (((f (i - 1)).val.add n (f (i + 1)).val).div n (i2f n 2))
  else
    ∀ left : Bool,
      ((f (i + 1)).val.sub n (f (i + 2)).val).absGt n ((f (i - 1)).val.sub n (f (i - 2)).val) = some left →
      v.val = if left then (f (i - 1)).val.add n ((f (i - 1)).val.sub n (f (i - 2)).val)
        else (f (i + 1)).val.add n ((f (i + 1)).val.sub n (f (i + 2)).val)

/-! ### Rounding in the default NUM -/

/-- r is the real number v ≥ 0, in units of 2^(−149), with this sign, rounded to binary32 (R15): finite, nearest, an exact tie
to the magnitude whose last bit is 0; unspecified exactly from the least v on that rounds beyond every finite value. -/
def rounded (neg : Bool) (v : ℝ) (r : FVal) : Prop :=
  (r = .unspecified ↔ (2 ^ 25 - 1) * 2 ^ 252 ≤ v)
    ∧ (r ≠ .unspecified → ∃ x, r = .num x)
    ∧ ∀ x, r = .num x →
      F32.finite x = true ∧ F32.neg x = neg
        ∧ ∀ y, F32.finite y = true →
          |(F32.mag x : ℝ) - v| ≤ |(F32.mag y : ℝ) - v|
            ∧ (|(F32.mag x : ℝ) - v| = |(F32.mag y : ℝ) - v| → F32.mag x ≠ F32.mag y → x.toNat % 2 = 0)

/-- r is the signed sum z of two values, in units of 2^(−149), rounded; a zero sum is a zero. -/
def roundedSum (z : Int) (r : FVal) : Prop :=
  if z = 0 then ∃ x, r = .num x ∧ F32.mag x = 0 else rounded (decide (z < 0)) (z.natAbs : ℝ) r

/-! ### Who may write what, and which requests a command may issue -/

/-- XR's writers (R28). -/
def writesXr : Instr → Prop
  | .xraw _ => True
  | .xsgl _ _ => True
  | .xdbl _ _ _ => True
  | .sext _ => True
  | .scmul _ => True
  | .ldx _ => True
  | .eccw _ => True
  | _ => False

/-- FR's writers (R29). -/
def writesFr : Instr → Prop
  | .scdiv _ => True
  | .gett _ => True
  | .getamb => True
  | _ => False

/-- The commands that extract a field into XR (R121, R125, R127). -/
def extracts : Instr → Prop
  | .xraw _ => True
  | .xsgl _ _ => True
  | .xdbl _ _ _ => True
  | _ => False

/-- TF's writers (R22, R232), CALCT by running them. -/
def writesTf : Instr → Prop
  | .calcto _ _ => True
  | .bpfix => True
  | .calct => True
  | _ => False

/-- TA's writers (R27). -/
def writesTa : Instr → Prop
  | .amb => True
  | .calcto _ _ => True
  | .rdframe => True
  | .calct => True
  | _ => False

/-- The writers of EE, EE_STATE and ECCST (R20, R32, R150, R190; log 35), INIT by running them. -/
def writesImage : Instr → Prop
  | .eeld => True
  | .eccs => True
  | .init => True
  | _ => False

/-- The commands that run an acquisition: the writers of FB, FB_VALID and the frame reader's registers (R21). -/
def acquires : Instr → Prop
  | .frd => True
  | .rdframe => True
  | _ => False

/-- CAL's writers (R24), INIT by running CALX. -/
def writesCal : Instr → Prop
  | .calx => True
  | .init => True
  | _ => False

/-- The commands that may raise a contract violation (R280). -/
def mayFault : Instr → Prop
  | .xraw _ => True
  | .xsgl _ _ => True
  | .xdbl _ _ _ => True
  | .calx => True
  | .init => True
  | _ => False

/-- The commands that issue bus requests (R63). -/
def usesBus : Instr → Prop
  | .eeld => True
  | .frd => True
  | .init => True
  | .rdframe => True
  | _ => False

/-- The value CFG_SEQ writes for a step whose read gave v (R266). -/
def rmwValue (m : Rmw) (v : Word) : Word := (v &&& m.andMask) ||| m.orValue

/-- The requests a command may issue (R63); a write of CFG_SEQ carries a value R266 makes of some word. -/
def mayRequest (c : Config) (i : Instr) (q : BusReq) : Prop :=
  match i with
  | .eeld => q = .read c.sa c.eeAddr 832
  | .init => q = .init c.freqKhz ∨ q = .read c.sa c.eeAddr 832
      ∨ ∃ m ∈ c.cfgSeq, q = .read c.sa m.reg 1 ∨ ∃ v, q = .write c.sa m.reg (rmwValue m v)
  | .frd => q = .read c.sa c.regStatus 1 ∨ q = .write c.sa c.regClear c.valClear
      ∨ (∃ sub k, k < 6 ∧ q = .read c.sa (c.winAddr sub k) 32)
      ∨ q = .read c.sa c.tailAddr 48 ∨ q = .read c.sa c.regCtrl 1
  | .rdframe => q = .read c.sa c.regStatus 1 ∨ q = .write c.sa c.regClear c.valClear
      ∨ (∃ sub k, k < 6 ∧ q = .read c.sa (c.winAddr sub k) 32)
      ∨ q = .read c.sa c.tailAddr 48 ∨ q = .read c.sa c.regCtrl 1
  | _ => False

/-- How many requests a command may issue (R335). -/
def requestBound (c : Config) : Instr → Nat
  | .eeld => 1
  | .init => 2 + 2 * c.cfgSeq.length
  | .frd => 51
  | .rdframe => 51
  | _ => 0

/-- The requests of CFG_SEQ when every step is answered ok, oldest first (R266). -/
def cfgRequests (c : Config) (vs : List Word) : List BusReq :=
  (c.cfgSeq.zip vs).flatMap fun mv => [.read c.sa mv.1.reg 1, .write c.sa mv.1.reg (rmwValue mv.1 mv.2)]

/-- The answers that make every step of CFG_SEQ succeed. -/
def cfgAnswers (vs : List Word) : List BusAnswer := vs.flatMap fun v => [.ok [v], .ok []]

end Sys2Proof.Spec

open Sys2Proof Sys2Proof.Machine

/-! ## Encoding -/

/-- Every command is read back from its own words (R91, R92, R93, R100). -/
def Obligations.DecodeOfEncode : Prop := ∀ i : Instr, decode (encode i) = .ok i

/-- Words that decode to a command are that command's own words: no bit of a transaction is ignored (R91 to R93, R100,
R102, R103). -/
def Obligations.EncodeOfDecode : Prop := ∀ (ws : List Word32) (i : Instr), decode ws = .ok i → ws = encode i

/-- The worked encodings of R107. -/
def Obligations.WorkedEncodingsDecode : Prop :=
  decode [0x0A000000, 0x00B02427] = .ok (.xsgl true ⟨11, 0, 0x2427⟩)
    ∧ decode [0x18280000] = .ok (.scmul 5)
    ∧ decode [0x1000000B] = .ok (.sext 11)
    ∧ decode [0x6C0000BF] = .ok (.gett 191)
    ∧ decode [0x2000D155] = .ok (.eccw 0xD155)
    ∧ decode [0x48000000, 0x3F733333, 0x41BC0000] = .ok (.calcto 0x3F733333 0x41BC0000)
    ∧ decode [0x0E000000, 0x00B02411, 0x00502412] = .ok (.xdbl true ⟨11, 0, 0x2411⟩ ⟨5, 0, 0x2412⟩)

/-- Words that form no command are refused with IllegalCommand and change nothing but STATUS (R102, R103). -/
def Obligations.IllegalWordsRefused : Prop :=
  ∀ (s : State) (c : Word32) (rest : List Word32) (more : List HostAct),
    s.faulted = false → s.cmds = .transaction (c :: rest) :: more → Spec.formsNoCommand c rest →
    step s = .next { s with cmds := more, status := .illegalCommand }

/-- A step takes the host's next transaction and runs the command its words decode to; the host interface's
withFetchWord puts such a transaction first (R90; log 10). -/
def Obligations.StepRunsDecodedCommand : Prop :=
  (∀ (s : State) (ws : List Word32) (i : Instr) (more : List HostAct),
      s.cmds = .transaction ws :: more → decode ws = .ok i → step s = exec i { s with cmds := more })
    ∧ ∀ (s : State) (nbits w : Nat) (i : Instr),
      decodeTableWord nbits w = some i → step (s.withFetchWord nbits w) = exec i s

/-! ## Statuses, checks and the fault -/

/-- While FAULT = 1 every transaction, whatever its words, is refused with Halted and changes nothing but STATUS
(R290). -/
def Obligations.FaultedBlockIsHalted : Prop :=
  ∀ (s : State) (ws : List Word32) (more : List HostAct),
    s.faulted = true → s.cmds = .transaction ws :: more →
    step s = .next { s with cmds := more, status := .halted }

/-- A command sets FAULT exactly when it ends with a contract violation, and none clears it (R286). -/
def Obligations.FaultFollowsContractViolation : Prop :=
  ∀ (i : Instr) (s t : State), exec i s = .next t →
    (t.faulted = true ↔ s.faulted = true ∨ t.status = .addressOutOfRange ∨ t.status = .fieldTooWide)

/-- Every command makes R293's checks in its order; the first that fails refuses it, changing STATUS and nothing else
(R285, R290, R291); where none fails the command answers a next state with no refusal. -/
def Obligations.RefusalsInOrder : Prop :=
  ∀ (i : Instr) (s : State),
    (∀ x, Spec.refusedWith i s x → exec i s = .next { s with status := x })
      ∧ ((∀ x, ¬ Spec.refusedWith i s x) →
          ∃ t, exec i s = .next t ∧ t.status ≠ .illegalCommand ∧ t.status ≠ .badState ∧ t.status ≠ .badOperand
            ∧ t.status ≠ .halted)

/-- The status a command ends with is OK, one R280 lets it raise, or a refusal; the codes are R280's. -/
def Obligations.StatusesByCommand : Prop :=
  (∀ (i : Instr) (s t : State), exec i s = .next t →
      t.status = .ok ∨ t.status ∈ Spec.mayRaise i ∨ t.status = .illegalCommand ∨ t.status = .badState
        ∨ t.status = .halted ∨ (Spec.takesOperand i ∧ t.status = .badOperand))
    ∧ [Status.ok, .correctedError, .uncorrectableError, .unusable, .transportError, .frameTimeout,
        .addressOutOfRange, .fieldTooWide, .illegalCommand, .badState, .badOperand, .halted].map Status.code
      = [0, 1, 2, 3, 4, 5, 6, 7, 8, 9, 10, 11]

/-! ## BFX, the bitfield extractor -/

/-- XRAW (R121, R122, R123): the shifted and masked word, or AddressOutOfRange. -/
def Obligations.XrawExtractsRawField : Prop :=
  ∀ (d : Desc) (s : State), s.faulted = false →
    Spec.checked (.xraw d) s (Spec.wellFormed d) (s.eeState = .raw ∨ s.eeState = .decoded)
      ((Spec.outOfImage s.cfg d.addr → exec (.xraw d) s = .next (Spec.violated s .addressOutOfRange))
        ∧ (¬ Spec.outOfImage s.cfg d.addr → Spec.givesXr (.xraw d) s (Spec.raw s.cfg s.ee d)))

/-- XSGL (R125): the raw field, sign-extended at its own width when S = 1. -/
def Obligations.XsglExtractsSingleField : Prop :=
  ∀ (sgn : Bool) (d : Desc) (s : State), s.faulted = false →
    Spec.checked (.xsgl sgn d) s (Spec.wellFormed d) (s.eeState = .raw ∨ s.eeState = .decoded)
      ((Spec.outOfImage s.cfg d.addr → exec (.xsgl sgn d) s = .next (Spec.violated s .addressOutOfRange))
        ∧ (¬ Spec.outOfImage s.cfg d.addr →
            Spec.givesXr (.xsgl sgn d) s
              (if sgn then Spec.sext d.width.toNat (Spec.raw s.cfg s.ee d) else Spec.raw s.cfg s.ee d)))

/-- XDBL (R127, R128): the combined width is checked first, then the address of hi and that of lo; the value is the two
fields joined, sign-extended at the combined width when S = 1. -/
def Obligations.XdblExtractsDualField : Prop :=
  ∀ (sgn : Bool) (hi lo : Desc) (s : State), s.faulted = false →
    Spec.checked (.xdbl sgn hi lo) s (Spec.wellFormed hi ∧ Spec.wellFormed lo)
      (s.eeState = .raw ∨ s.eeState = .decoded)
      (if 32 < hi.width.toNat + lo.width.toNat then
        exec (.xdbl sgn hi lo) s = .next (Spec.violated s .fieldTooWide)
      else
        (Spec.outOfImage s.cfg hi.addr ∨ Spec.outOfImage s.cfg lo.addr →
            exec (.xdbl sgn hi lo) s = .next (Spec.violated s .addressOutOfRange))
          ∧ (¬ Spec.outOfImage s.cfg hi.addr → ¬ Spec.outOfImage s.cfg lo.addr →
            Spec.givesXr (.xdbl sgn hi lo) s
              (if sgn then Spec.sext (hi.width.toNat + lo.width.toNat) (Spec.joined s.cfg s.ee hi lo)
                else Spec.joined s.cfg s.ee hi lo)))

/-- The model's fields: what they are (R122, R125, R127, R128), that a joined field is the sum of its parts, and their ranges
(R124); so XR is in −2^31 .. 2^32 − 1 after every extraction that ends OK. -/
def Obligations.FieldValuesFit : Prop :=
  (∀ (c : Config) (ee : Memory Word) (sgn : Bool) (hi lo : Desc), Spec.wellFormed hi → Spec.wellFormed lo →
      rawField c ee hi = Spec.raw c ee hi
        ∧ rawField c ee hi < 2 ^ min hi.width.toNat (16 - hi.start.toNat)
        ∧ singleField c ee sgn hi =
            (if sgn then Spec.sext hi.width.toNat (rawField c ee hi) else (rawField c ee hi : Int))
        ∧ -(2 ^ 31) ≤ singleField c ee sgn hi ∧ singleField c ee sgn hi < 2 ^ 32
        ∧ dualRaw c ee hi lo = rawField c ee hi * 2 ^ lo.width.toNat + rawField c ee lo
        ∧ dualField c ee sgn hi lo =
            (if sgn then Spec.sext (hi.width.toNat + lo.width.toNat) (dualRaw c ee hi lo)
              else (dualRaw c ee hi lo : Int))
        ∧ (hi.width.toNat + lo.width.toNat ≤ 32 →
            dualRaw c ee hi lo < 2 ^ 32 ∧ -(2 ^ 31) ≤ dualField c ee sgn hi lo
              ∧ dualField c ee sgn hi lo < 2 ^ 32))
    ∧ ∀ (i : Instr) (s t : State), Spec.extracts i → exec i s = .next t → t.status = .ok →
      -(2 ^ 31) ≤ t.xr.toInt ∧ t.xr.toInt < 2 ^ 32

/-- SEXT (R126): 2^w is subtracted when bit w − 1 of XR is 1; XR outside 0 .. 2^w − 1 is refused. -/
def Obligations.SextExtendsXr : Prop :=
  ∀ (w : Word) (s : State), s.faulted = false →
    Spec.checked (.sext w) s (1 ≤ w.toNat ∧ w.toNat ≤ 32) True
      (if 0 ≤ s.xr.toInt ∧ s.xr.toInt < 2 ^ w.toNat then
        Spec.givesXr (.sext w) s
          (if s.xr.getLsbD (w.toNat - 1) then s.xr.toInt - 2 ^ w.toNat else s.xr.toInt)
      else exec (.sext w) s = .next { s with status := .badOperand })

/-- SCDIV (R130): FR takes the quotient of i2f(XR) by pow2(e), with the default NUM always a number, which the port shows,
and the exact one where |XR| < 2^24; nothing else changes. -/
def Obligations.ScdivDividesXr : Prop :=
  ∀ (e : BitVec 6) (s : State), s.faulted = false →
    ∃ w : FWord, exec (.scdiv e) s = .next { s with fr := w, draws := s.draws + 1, status := .ok }
      ∧ w.val = (i2f s.cfg.num s.xr.toInt).div s.cfg.num (pow2 s.cfg.num e.toNat)
      ∧ (s.cfg.num = .binary32 →
          ∃ x : F32, w = .num x ∧ w.port s.cfg.num = x
            ∧ (s.xr.toInt.natAbs < 2 ^ 24 → F32.units x * 2 ^ e.toNat = s.xr.toInt * 2 ^ 149))

/-- SCMUL (R131): the exact product, or BadOperand where it does not fit 64 bits signed. -/
def Obligations.ScmulMultipliesXr : Prop :=
  ∀ (e : BitVec 6) (s : State), s.faulted = false →
    Spec.checked (.scmul e) s (e.toNat ≤ 31) True
      (if -(2 ^ 63) ≤ s.xr.toInt * 2 ^ e.toNat ∧ s.xr.toInt * 2 ^ e.toNat < 2 ^ 63 then
        Spec.givesXr (.scmul e) s (s.xr.toInt * 2 ^ e.toNat)
      else exec (.scmul e) s = .next { s with status := .badOperand })

/-- LDX (R132): XR takes the operand word, zero-extended. -/
def Obligations.LdxLoadsXr : Prop :=
  ∀ (n : Word32) (s : State), s.faulted = false →
    exec (.ldx n) s = .next { s with xr := n.setWidth 64, status := .ok }

/-- The default NUM: every operator gives its exact real-number result, rounded once to the nearest binary32 value (R15; that
an overflow is unspecified and the sign of a zero are the model's choices, log 7 and log 24). Units are 2^(−149). -/
def Obligations.RoundsToNearestEven : Prop :=
  (∀ (neg : Bool) (n d : Nat), 0 < d → Spec.rounded neg ((n : ℝ) / d) (F32.ofRatio neg n d))
    ∧ (∀ x y : F32, F32.finite x = true → F32.finite y = true →
        Spec.roundedSum (F32.units x + F32.units y) ((FVal.num x).add .binary32 (.num y))
          ∧ Spec.roundedSum (F32.units x - F32.units y) ((FVal.num x).sub .binary32 (.num y))
          ∧ Spec.rounded (F32.neg x != F32.neg y) ((F32.mag x : ℝ) * F32.mag y / 2 ^ 149)
              ((FVal.num x).mul .binary32 (.num y))
          ∧ (F32.mag y = 0 → (FVal.num x).div .binary32 (.num y) = .unspecified)
          ∧ (F32.mag y ≠ 0 →
              Spec.rounded (F32.neg x != F32.neg y) ((F32.mag x : ℝ) * 2 ^ 149 / F32.mag y)
                ((FVal.num x).div .binary32 (.num y))))
    ∧ (∀ x : F32, F32.finite x = true →
        (F32.neg x = false → Spec.rounded false (Real.sqrt ((F32.mag x : ℝ) * 2 ^ 149)) (F32.sqrt x))
          ∧ (F32.mag x = 0 → F32.sqrt x = .num x)
          ∧ (F32.neg x = true → F32.mag x ≠ 0 → (FVal.num x).root4 .binary32 = .unspecified)
          ∧ ∀ r, F32.sqrt x = .num r → (FVal.num x).root4 .binary32 = F32.sqrt r)
    ∧ (∀ z : Int, Spec.rounded (decide (z < 0)) ((z.natAbs : ℝ) * 2 ^ 149) (i2f .binary32 z))
    ∧ (∀ e : Int, Spec.rounded false ((2 : ℝ) ^ (e + 149)) (pow2 .binary32 e))
    ∧ ∀ p q : Nat, 0 < q → Spec.rounded false ((p : ℝ) * 2 ^ 149 / q) (literal .binary32 p q)

/-! ## ECC, the Hamming decoder -/

/-- The four parities and the overall parity make the exclusive-or of SYN over the bits that are set, a number in 0..31;
the syndrome is linear (R142, R143). -/
def Obligations.SyndromeIsLinear : Prop :=
  ∀ (c : Config) (a b : Word),
    (parity c a 0).toNat + 2 * (parity c a 1).toNat + 4 * (parity c a 2).toNat + 8 * (parity c a 3).toNat
        + 16 * (overallParity a).toNat = Spec.syn c a
      ∧ Spec.syn c a < 32
      ∧ Spec.syn c (a ^^^ b) = Spec.syn c a ^^^ Spec.syn c b

/-- From a valid word one flipped bit is corrected and two are detected, at every position, exactly when SYN is injective
(R145, R146). -/
def Obligations.OneFlipCorrectedTwoDetected : Prop :=
  ∀ c : Config,
    (∀ i j, i < 16 → j < 16 → c.synOf i = c.synOf j → i = j)
      ↔ ∀ w, Spec.syn c w = 0 →
        (∀ j, j < 16 → hdec c (w ^^^ Spec.bit j) = (w &&& 0x07FF, .corrected))
          ∧ ∀ i j, i < 16 → j < 16 → i ≠ j → (hdec c (w ^^^ Spec.bit i ^^^ Spec.bit j)).2 = .uncorrectable

/-- ECCW (R144, R147): XR takes the decoded word in all three cases, STATUS the result. -/
def Obligations.EccwDecodesWord : Prop :=
  ∀ (w : Word) (s : State), s.faulted = false → s.cfg.synInjective = true →
    ∃ (v : Word) (st : EccStatus), Spec.hdecGives s.cfg w v st
      ∧ exec (.eccw w) s = .next { s with xr := v.setWidth 64, status := Spec.reported st }

/-- ECCS (R140, R146, R150): every word of 16..831 is replaced by its decoding, below 2048; every other word reads as
before; ECCST and STATUS report the worst result. -/
def Obligations.EccsScansImage : Prop :=
  ∀ s : State, s.faulted = false → s.cfg.synInjective = true → s.ee.wf = true → s.ee.below 832 = true →
    Spec.checked .eccs s True (s.eeState = .raw)
      (∃ (ee : Memory Word) (worst : EccStatus),
        exec .eccs s = .next { s with
          ee := ee, eccst := worst, eeState := .decoded, status := Spec.reported worst }
        ∧ Spec.isWorst s.cfg s.ee worst
        ∧ (∀ i, 16 ≤ i → i ≤ 831 →
            (∃ st, Spec.hdecGives s.cfg (s.ee.read i) (ee.read i) st) ∧ (ee.read i).toNat < 2048)
        ∧ ∀ i, i < 16 ∨ 831 < i → ee.read i = s.ee.read i)

/-! ## CALX, the calibration extractor -/

/-- CALX commits CAL (R160, R164, R165, R166, R180): the device-select check holds, the table is well-made and at most
two pixels are broken. -/
def Obligations.CalxCommitsCalibration : Prop :=
  ∀ (s : State) (L : List Nat), Spec.calxAccepted s → devSelected s.cfg s.ee = true → s.cfg.fdmapWellMade = true →
    Spec.listsBroken s.cfg s.ee L → L.length ≤ 2 →
    ∃ (cal : Calibration) (draws : Nat),
      exec .calx s = .next { s with cal := cal, calValid := true, draws := draws, status := .ok }
      ∧ Spec.fieldIs s.cfg s.ee .kVdd cal.kVdd ∧ Spec.fieldIs s.cfg s.ee .vdd25 cal.vdd25
      ∧ Spec.fieldIs s.cfg s.ee .kvPTAT cal.kvPTAT ∧ Spec.fieldIs s.cfg s.ee .ktPTAT cal.ktPTAT
      ∧ Spec.fieldIs s.cfg s.ee .vPTAT25 cal.vPTAT25 ∧ Spec.fieldIs s.cfg s.ee .alphaPTAT cal.alphaPTAT
      ∧ Spec.fieldIs s.cfg s.ee .gainEE cal.gainEE ∧ Spec.fieldIs s.cfg s.ee .tgc cal.tgc
      ∧ Spec.fieldIs s.cfg s.ee .ksTa cal.ksTa ∧ Spec.fieldIs s.cfg s.ee .emissivityEE cal.emissivityEE
      ∧ Spec.fieldIs s.cfg s.ee .resolutionEE cal.resolutionEE ∧ Spec.fieldIs s.cfg s.ee .cpAlpha cal.cpAlpha
      ∧ Spec.fieldIs s.cfg s.ee .cpOffset cal.cpOffset ∧ Spec.fieldIs s.cfg s.ee .cpKv cal.cpKv
      ∧ Spec.fieldIs s.cfg s.ee .cpKta cal.cpKta
      ∧ (∀ k, k < 8 → Spec.fieldIs s.cfg s.ee (.ksTo k) (cal.ksTo.read k))
      ∧ cal.ct.read 0 = .int (-40) ∧ cal.ct.read 1 = .int (-20) ∧ cal.ct.read 2 = .int 0
      ∧ cal.ct.read 3 = .int 80 ∧ cal.ct.read 4 = .int 120
      ∧ ∀ k, 5 ≤ k → k ≤ 7 → Spec.fieldIs s.cfg s.ee (.ct k) (cal.ct.read k)

/-- The pixel tables of a committed CAL: alpha, kta, kv (R167, R168, R169) and the two offset tables (R170). Where a
negative shared exponent leaves a fraction the spec states no integer (log 19). -/
def Obligations.CalxFillsPixelTables : Prop :=
  ∀ (s t : State) (c : Config) (f : RowName → Int), c = s.cfg → f = Spec.fieldint s.cfg s.ee →
    exec .calx s = .next t → t.status = .ok → ∀ p, p < 192 →
      (t.cal.alpha.read p).val =
          (i2f c.num (f (.apix p))).mul c.num
            (((i2f c.num (f (.amax (p / 32)))).div c.num (pow2 c.num (f (.aexp (p / 32)) + 20))).div c.num
              (i2f c.num 2047))
        ∧ (∀ x, Spec.scaled (f (.ktaDelta p)) (f .ktaScale2) x →
            (t.cal.kta.read p).val = (i2f c.num (x + f .ktaAvg)).div c.num (pow2 c.num (f .ktaScale1)))
        ∧ (∀ x, Spec.scaled (f (.kvDelta p)) (f .kvScale2) x →
            (t.cal.kv.read p).val = (i2f c.num (x + f .kvAvg)).div c.num (pow2 c.num (f .kvScale1)))
        ∧ (∀ x, Spec.scaled (f (.offPix false p)) (f .offScale) x → t.cal.offset0.read p = x + f .offRef)
        ∧ ∀ x, Spec.scaled (f (.offPix true p)) (f .offScale) x → t.cal.offset1.read p = x + f .offRef

/-- brokenPixels of a committed CAL are the broken pixels in increasing order, at most two, then the sentinel (R176, R177,
R178). -/
def Obligations.CalxRecordsBrokenPixels : Prop :=
  ∀ (s t : State) (L : List Nat), exec .calx s = .next t → t.status = .ok → Spec.listsBroken s.cfg s.ee L →
    L.length ≤ 2 ∧ t.cal.broken0 = L.getD 0 0xFFFF ∧ t.cal.broken1 = L.getD 1 0xFFFF
      ∧ (t.cal.broken0 = 0xFFFF → t.cal.broken1 = 0xFFFF)
      ∧ (t.cal.broken0 ≠ 0xFFFF → t.cal.broken1 ≠ 0xFFFF → t.cal.broken0 < t.cal.broken1)

/-- CALX raises Unusable, changing nothing but STATUS and FS, when the device-select check fails, and when it holds, the
table is well-made and a third pixel is broken (R163, R177, R180). -/
def Obligations.CalxUnusableImage : Prop :=
  ∀ s : State, Spec.calxAccepted s →
    (devSelected s.cfg s.ee = false → exec .calx s = .next { s with status := .unusable, fs := .idle })
      ∧ (devSelected s.cfg s.ee = true → s.cfg.fdmapWellMade = true →
          ∀ p q r, p < q → q < r → r < 192 → Spec.isBroken s.cfg s.ee p → Spec.isBroken s.cfg s.ee q →
            Spec.isBroken s.cfg s.ee r → exec .calx s = .next { s with status := .unusable, fs := .idle })

/-- With the device-select check passed, CALX raises a contract violation exactly when a row it evaluates has an address
outside the image or too wide a field; CAL is then not written (R162). Which rows it evaluates, and that an ill-formed width
alone raises nothing, are the model's choice (log 18): an exponent's row is evaluated only for a row read by fieldval whose
mode is MUL or DIV. -/
def Obligations.CalxViolationsAreTheTables : Prop :=
  ∀ s : State, Spec.calxAccepted s → devSelected s.cfg s.ee = true →
    ((∃ n, Spec.rowFails s.cfg n) →
        exec .calx s = .next (Spec.violated s .addressOutOfRange)
          ∨ exec .calx s = .next (Spec.violated s .fieldTooWide))
      ∧ ((∀ n, ¬ Spec.rowFails s.cfg n) →
          ∀ t, exec .calx s = .next t → t.status = .ok ∨ t.status = .unusable)

/-! ## FRD, the frame reader and the image capture -/

/-- EELD (R190): one request for 832 words; on err the image is gone and TransportError is raised, else the image is the
words that came. -/
def Obligations.EeldCapturesImage : Prop :=
  ∀ s : State, s.faulted = false →
    Spec.checked .eeld s True (s.calValid = false)
      ((s.wordsAnswered 832 = none →
          exec .eeld s = .next { s.asked (.read s.cfg.sa s.cfg.eeAddr 832) with
            eeState := .empty, status := .transportError, fs := .idle })
        ∧ ∀ ws, s.wordsAnswered 832 = some ws →
          ∃ ee, exec .eeld s = .next { s.asked (.read s.cfg.sa s.cfg.eeAddr 832) with
              ee := ee, eeState := .raw, eccst := .clean, status := .ok }
            ∧ ws.length = 832 ∧ ∀ i, i < 832 → ws[i]? = some (ee.read i))

/-- FRD always ends, after 1 to 51 requests, whatever the transport answers; FB_VALID is 1 exactly when it ends OK, and
that takes at least 11 requests (R203, R205). -/
def Obligations.FrdAlwaysEnds : Prop :=
  ∀ s : State, s.faulted = false →
    ∃ (t : State) (qs : List BusReq), exec .frd s = .next t ∧ t.reqs = qs ++ s.reqs
      ∧ 1 ≤ qs.length ∧ qs.length ≤ 51 ∧ t.fs = .idle ∧ t.np ≤ 5 ∧ t.att ≤ 5 ∧ t.win ≤ 6
      ∧ (t.status = .ok ∨ t.status = .frameTimeout ∨ t.status = .transportError)
      ∧ (t.fbValid = true ↔ t.status = .ok) ∧ (t.status = .ok → 11 ≤ qs.length)

/-- FRD, step by step, ends in the state R204's summary gives. -/
def Obligations.FrdIsTheSummary : Prop :=
  ∀ s : State, s.faulted = false → exec .frd s = .next (Spec.acquisition s)

/-- FRD stops with FrameTimeout after exactly five polls that find data-ready clear (R195, R196). -/
def Obligations.FrdStopsAfterFivePolls : Prop :=
  ∀ (s : State) (w1 w2 w3 w4 w5 : Word) (more : List BusAnswer), s.faulted = false →
    s.script = [w1, w2, w3, w4, w5].map (fun w => .ok [w]) ++ more →
    (∀ w ∈ [w1, w2, w3, w4, w5], w &&& s.cfg.rdyMask = 0) →
    exec .frd s = .next { s with
      fbValid := false, np := 5, att := 0, win := 0, stw := w5, fs := .idle, status := .frameTimeout
      script := more, reqs := List.replicate 5 (.read s.cfg.sa s.cfg.regStatus 1) ++ s.reqs }

/-- FRD on a transport that answers one pass (R196 to R201): the eleven requests, the frame and its trailer. -/
def Obligations.FrdStoresFrame : Prop :=
  ∀ (s : State) (st : Word) (W : List (List Word)) (tail : List Word) (st' ctrl : Word) (more : List BusAnswer),
    s.faulted = false → s.fb.wf = true → Spec.onePass s st W tail st' ctrl more →
    ∃ fb, exec .frd s = .next { s with
        fb := fb, fbValid := true, np := 0, att := 1, win := 6, subp := Spec.parityOf s.cfg st', stw := st'
        fs := .idle, status := .ok, script := more
        reqs := Spec.onePassRequests s.cfg (Spec.parityOf s.cfg st) ++ s.reqs }
      ∧ Spec.holdsFrame s.cfg s.fb fb W tail ctrl (Spec.parityOf s.cfg st')

/-- An acquisition writes only FB[0..239] and, when it ends OK, the trailer: every other word of FB reads as before
(R21, R205). -/
def Obligations.FrdWritesOnlyTheFrame : Prop :=
  ∀ s t : State, s.fb.wf = true → exec .frd s = .next t →
    t.fb.wf = true
      ∧ ∀ i, 240 ≤ i → (t.status = .ok → i ≠ s.cfg.trailerBase ∧ i ≠ s.cfg.trailerBase + 1) →
        t.fb.read i = s.fb.read i

/-! ## TCMP, the temperature compensator -/

/-- AMB (R220, R221, R222): TA takes the ambient temperature of the frame in FB. -/
def Obligations.AmbComputesAmbient : Prop :=
  ∀ s : State, s.faulted = false →
    Spec.checked .amb s True (s.fbValid = true ∧ s.calValid = true)
      (∃ w : FWord, exec .amb s = .next { s with ta := w, taValid := true, draws := s.draws + 1, status := .ok }
        ∧ w.val = Spec.ta s)

/-- The default F_VDD and F_TA (R223, R224), which are the spec's general knowledge (log 5). -/
def Obligations.DefaultAmbientFormulas : Prop :=
  ∀ (c : Config) (n : Numerics) (cal : Calibration) (vddraw ptat ptatart : Int) (res : Nat) (vdd : FVal), c.num = n →
    (c.fVdd = .printed →
        vddFormula c cal vddraw res =
          ((((((cal.resolutionEE.pow2 n).div n (pow2 n res)).mul n (i2f n vddraw)).sub n (cal.vdd25.toF n)).div n
            (cal.kVdd.toF n)).add n (literal n 33 10)))
      ∧ (c.fTa = .printed →
        taFormula c cal ptat ptatart vdd =
          ((((((i2f n ptat).div n (((i2f n ptat).mul n (cal.alphaPTAT.toF n)).add n (i2f n ptatart))).mul n
              (pow2 n 18)).div n ((i2f n 1).add n ((cal.kvPTAT.toF n).mul n (vdd.sub n (literal n 33 10))))).sub n
                (cal.vPTAT25.toF n)).div n (cal.ktPTAT.toF n)).add n (i2f n 25))

/-- CALCTO (R225 to R231, R234, R235): TA, and every pixel's second-pass temperature in the range of its first-pass
temperature. -/
def Obligations.CalctoComputesTemperatures : Prop :=
  ∀ (eps tr : F32) (s : State) (n : Numerics), s.cfg.num = n → s.faulted = false →
    Spec.checked (.calcto eps tr) s True (s.fbValid = true ∧ s.calValid = true)
      (∃ (w : FWord) (tf : Memory FWord),
        exec (.calcto eps tr) s = .next { s with
          ta := w, taValid := true, tf := tf, tfValid := true, draws := s.draws + 193, status := .ok }
        ∧ w.val = Spec.ta s
        ∧ ∀ p r, p < 192 → Spec.isRange n s.cal.ct (Spec.to1 s (.ofBits n eps) (.ofBits n tr) p) r →
          (tf.read p).val =
            Spec.radiometric n (Spec.ir s (.ofBits n eps) p)
              (den2Formula s.cfg s.cal (Spec.ac s p) r (Spec.to1 s (.ofBits n eps) (.ofBits n tr) p))
              (Spec.tar n (Spec.ta s) (.ofBits n tr) (.ofBits n eps)))

/-- With the printed sub-formulas pixels are independent (R233): two runs whose frames agree on pixel p, the auxiliary words
and the trailer, and whose CAL differ in other pixels' entries only, give pixel p the same temperature. The printed
sub-formulas are the spec's general-knowledge defaults (log 5); with another function of CAL nothing is claimed. -/
def Obligations.PixelsAreIndependent : Prop :=
  ∀ (eps tr : F32) (p : Nat) (s s' t t' : State) (alpha kta kv : Memory FWord) (offset0 offset1 : Memory Int),
    p < 192 → s.faulted = false → s'.faulted = false → s.fbValid = true → s'.fbValid = true →
    s.calValid = true → s'.calValid = true → s'.cfg = s.cfg →
    s.cfg.fVdd = .printed → s.cfg.fTa = .printed → s.cfg.fCpOff = .printed → s.cfg.fPixOff = .printed →
    s.cfg.fSx = .printed → s.cfg.fDen2 = .printed → s.cfg.fAcorr = .printed →
    s'.cal = { s.cal with alpha := alpha, kta := kta, kv := kv, offset0 := offset0, offset1 := offset1 } →
    alpha.read p = s.cal.alpha.read p → kta.read p = s.cal.kta.read p → kv.read p = s.cal.kv.read p →
    offset0.read p = s.cal.offset0.read p → offset1.read p = s.cal.offset1.read p →
    (∀ i, i = p ∨ (192 ≤ i ∧ i ≤ 239) ∨ i = s.cfg.trailerBase ∨ i = s.cfg.trailerBase + 1 →
      s'.fb.read i = s.fb.read i) →
    exec (.calcto eps tr) s = .next t → exec (.calcto eps tr) s' = .next t' →
    (t'.tf.read p).val = (t.tf.read p).val

/-- The range is the least k in 0..6 with to1 < ct[k+1], else 7; a specified first-pass temperature and integer thresholds
always have exactly one (R234). -/
def Obligations.RangeIsLeastAbove : Prop :=
  ∀ (n : Numerics) (ct : Memory CalVal) (x : FVal),
    (∀ r, rangeOf n ct x = some r ↔ Spec.isRange n ct x r)
      ∧ (x.checked n ≠ .unspecified → (∀ k, 1 ≤ k → k ≤ 7 → ∃ z, ct.read k = .int z) →
        ∃ r, rangeOf n ct x = some r)

/-- The baseline (R237), with the default NUM: a pixel without net signal, both of whose denominators are numbers other than zero, has the
temperature root4(tar) − 273.15 whatever the sub-formulas, the emissivity and the range. -/
def Obligations.BaselineTemperature : Prop :=
  ∀ (eps tr : F32) (s t : State) (n : Numerics) (p r : Nat) (i d1 d2 : F32), n = .binary32 → s.cfg.num = n → p < 192 →
    s.faulted = false → s.fbValid = true → s.calValid = true → exec (.calcto eps tr) s = .next t →
    Spec.ir s (.ofBits n eps) p = .num i → F32.mag i = 0 →
    Spec.den1 s (.ofBits n eps) (.ofBits n tr) p = .num d1 → F32.mag d1 ≠ 0 →
    Spec.isRange n s.cal.ct (Spec.to1 s (.ofBits n eps) (.ofBits n tr) p) r →
    den2Formula s.cfg s.cal (Spec.ac s p) r (Spec.to1 s (.ofBits n eps) (.ofBits n tr) p) = .num d2 →
    F32.mag d2 ≠ 0 →
    Spec.to1 s (.ofBits n eps) (.ofBits n tr) p =
        ((Spec.tar n (Spec.ta s) (.ofBits n tr) (.ofBits n eps)).root4 n).sub n (Spec.kelvin n)
      ∧ (t.tf.read p).val =
        ((Spec.tar n (Spec.ta s) (.ofBits n tr) (.ofBits n eps)).root4 n).sub n (Spec.kelvin n)

/-- The default chained ratios (R236; log 5): 1 in range 1, a factor more per range upwards, one less downwards. -/
def Obligations.ChainedRatios : Prop :=
  ∀ (c : Config) (n : Numerics) (cal : Calibration), c.num = n → c.fAcorr = .printed →
    acorrFormula c cal 1 = i2f n 1
      ∧ (∀ r, 1 ≤ r → r ≤ 6 →
          acorrFormula c cal (r + 1) =
            (acorrFormula c cal r).mul n
              ((i2f n 1).add n
                (((cal.ksTo.read r).toF n).mul n ((cal.ct.read (r + 1)).subF n (cal.ct.read r)))))
      ∧ acorrFormula c cal 0 =
        (acorrFormula c cal 1).div n
          ((i2f n 1).add n (((cal.ksTo.read 0).toF n).mul n ((cal.ct.read 1).subF n (cal.ct.read 0))))

/-- BPFIX (R245, R246): the entries of brokenPixels up to the sentinel are repaired in order, in place; every other
element of TF reads as before. -/
def Obligations.BpfixRepairsInOrder : Prop :=
  ∀ s : State, s.faulted = false → s.tf.wf = true →
    Spec.checked .bpfix s True (s.tfValid = true ∧ s.calValid = true)
      (∃ tf : Memory FWord,
        exec .bpfix s = .next { s with tf := tf, draws := s.draws + 2, status := .ok }
        ∧ tf.wf = true
        ∧ (s.cal.broken0 = 0xFFFF → ∀ p, tf.read p = s.tf.read p)
        ∧ (s.cal.broken0 ≠ 0xFFFF →
            ∃ f : Nat → FWord,
              (∀ p, p ≠ s.cal.broken0.toNat → f p = s.tf.read p)
                ∧ Spec.repairs s.cfg.num s.tf.read s.cal.broken0.toNat (f s.cal.broken0.toNat)
                ∧ (s.cal.broken1 = 0xFFFF → ∀ p, tf.read p = f p)
                ∧ (s.cal.broken1 ≠ 0xFFFF →
                    (∀ p, p ≠ s.cal.broken1.toNat → tf.read p = f p)
                      ∧ Spec.repairs s.cfg.num f s.cal.broken1.toNat (tf.read s.cal.broken1.toNat))))

/-! ## SEQ, the facade sequencer -/

/-- INIT (R262): the transport init, then EELD, ECCS and CALX, then CFG_SEQ, ending at the first that fails (R260, R263,
R264, R265). -/
def Obligations.InitIsComposed : Prop :=
  ∀ s : State, s.faulted = false →
    Spec.checked .init s True (s.inited = false ∧ s.calValid = false)
      ((s.wordsAnswered 0 = none →
          exec .init s = .next { s.asked (.init s.cfg.freqKhz) with status := .transportError, fs := .idle })
        ∧ ∀ ws, s.wordsAnswered 0 = some ws →
          ∃ a, exec .eeld (s.asked (.init s.cfg.freqKhz)) = .next a
            ∧ (a.status ≠ .ok → exec .init s = .next a)
            ∧ (a.status = .ok →
                ∃ b, exec .eccs a = .next b
                  ∧ (b.eccst = .uncorrectable → exec .init s = .next { b with fs := .idle })
                  ∧ (b.eccst ≠ .uncorrectable →
                      ∃ c, exec .calx { b with wEcc := b.wEcc || decide (b.eccst = .corrected) } = .next c
                        ∧ (c.status ≠ .ok → exec .init s = .next c)
                        ∧ (c.status = .ok →
                            exec .init s =
                              .next { State.runCfg s.cfg.cfgSeq c with inited := true, status := .ok }))))

/-- INIT on a transport that answers every request ok and an image that decodes and extracts (R262, R264, R266): the
requests, the image, and the flags. -/
def Obligations.InitSucceeds : Prop :=
  ∀ (s : State) (ws : List Word) (vs : List Word) (more : List BusAnswer),
    s.faulted = false → s.inited = false → s.calValid = false → s.cfg.synInjective = true →
    ws.length = 832 → vs.length = s.cfg.cfgSeq.length →
    s.script = .ok [] :: .ok ws :: Spec.cfgAnswers vs ++ more →
    ¬ Spec.someUncorrectable s.cfg (Memory.ofList ws) →
    calxFailure s.cfg (scanImage s.cfg (Memory.ofList ws)) = none →
    ∃ t, exec .init s = .next t ∧ t.status = .ok ∧ t.inited = true ∧ t.calValid = true ∧ t.eeState = .decoded
      ∧ Spec.isWorst s.cfg (Memory.ofList ws) t.eccst
      ∧ (t.wEcc = true ↔ s.wEcc = true ∨ t.eccst = .corrected) ∧ t.wCfg = s.wCfg ∧ t.script = more
      ∧ t.reqs =
          (BusReq.init s.cfg.freqKhz :: .read s.cfg.sa s.cfg.eeAddr 832 :: Spec.cfgRequests s.cfg vs).reverse ++ s.reqs
      ∧ (∀ i, i < 16 → ws[i]? = some (t.ee.read i))
      ∧ ∀ i, 16 ≤ i → i ≤ 831 → ∃ st, Spec.hdecGives s.cfg (ws.getD i 0) (t.ee.read i) st

/-- An err answer ends a command at once: it is the last request of EELD, FRD and RDFRAME, which end with
TransportError; in INIT the one exception is CFG_SEQ, where it sets W_CFG and INIT ends OK (R64, R266). -/
def Obligations.ErrAnswerIsTheLast : Prop :=
  ∀ (i : Instr) (s t : State) (oks : List (List Word)) (more : List BusAnswer),
    s.script = oks.map .ok ++ .err :: more → exec i s = .next t → t.script.length ≤ more.length →
    t.script = more
      ∧ (i ≠ .init → t.status = .transportError)
      ∧ (i = .init → t.status = .transportError ∨ (t.status = .ok ∧ t.wCfg = true))

/-- RDFRAME (R268) is FRD and, when that ends OK, AMB; on failure TA and TA_VALID are as they were and FB_VALID is 0. -/
def Obligations.RdframeIsComposed : Prop :=
  ∀ s : State, s.faulted = false →
    Spec.checked .rdframe s True (s.calValid = true)
      (∃ a, exec .frd s = .next a
        ∧ (a.status ≠ .ok →
            exec .rdframe s = .next a ∧ a.ta = s.ta ∧ a.taValid = s.taValid ∧ a.fbValid = false)
        ∧ (a.status = .ok → exec .rdframe s = exec .amb a))

/-- RDFRAME on a transport that answers one pass: the frame, and the ambient temperature of that frame (R268). -/
def Obligations.RdframeSucceeds : Prop :=
  ∀ (s : State) (st : Word) (W : List (List Word)) (tail : List Word) (st' ctrl : Word) (more : List BusAnswer),
    s.faulted = false → s.calValid = true → s.fb.wf = true → Spec.onePass s st W tail st' ctrl more →
    ∃ (fb : Memory Word) (w : FWord), exec .rdframe s = .next { s with
        fb := fb, fbValid := true, np := 0, att := 1, win := 6, subp := Spec.parityOf s.cfg st', stw := st'
        fs := .idle, status := .ok, script := more, ta := w, taValid := true, draws := s.draws + 1
        reqs := Spec.onePassRequests s.cfg (Spec.parityOf s.cfg st) ++ s.reqs }
      ∧ Spec.holdsFrame s.cfg s.fb fb W tail ctrl (Spec.parityOf s.cfg st')
      ∧ w.val = Spec.ta { s with fb := fb }

/-- CALCT (R270): CALCTO with the stored emissivity and TA as it stands, then BPFIX. The first part says so where both
hold binary32 values; the second says what CALCT completes with, always. -/
def Obligations.CalctRunsCalctoThenBpfix : Prop :=
  ∀ s : State, s.faulted = false →
    Spec.checked .calct s True (s.calValid = true ∧ s.fbValid = true ∧ s.taValid = true)
      ((∀ e t, s.emis = .num e → s.ta = .num t →
          ∃ a, exec (.calcto e t) s = .next a ∧ exec .calct s = exec .bpfix a)
        ∧ ∃ (w : FWord) (tf : Memory FWord), exec .calct s = .next { s with
            ta := w, taValid := true, tf := tf, tfValid := true, draws := s.draws + 195, status := .ok }
          ∧ w.val = Spec.ta s)

/-- GETT (R272): FR takes the element of TF; an index above 191 is refused. -/
def Obligations.GettReadsTemperature : Prop :=
  ∀ (i : Word) (s : State), s.faulted = false →
    Spec.checked (.gett i) s True (s.tfValid = true)
      ((i.toNat ≤ 191 → exec (.gett i) s = .next { s with fr := s.tf.read i.toNat, status := .ok })
        ∧ (191 < i.toNat → exec (.gett i) s = .next { s with status := .badOperand }))

/-- GETAMB (R273): FR takes TA. -/
def Obligations.GetambReadsAmbient : Prop :=
  ∀ s : State, s.faulted = false →
    Spec.checked .getamb s True (s.taValid = true) (exec .getamb s = .next { s with fr := s.ta, status := .ok })

/-! ## The whole machine -/

/-- Every step keeps the invariant: canonical memories within their sizes, FS IDLE between commands, the bounds of NP, ATT
and WIN, the order in which the flags are set, 11-bit words after a scan, brokenPixels, the trailer's parity, FAULT and
the last status (R26, R36, R38, R146, R178, R21, R286). -/
def Obligations.StepKeepsInvariant : Prop := ∀ s t : State, s.Inv → step s = .next t → t.Inv

/-- The invariant holds after reset. -/
def Obligations.ResetMeetsInvariant : Prop := State.reset.Inv

/-- Once CAL_VALID = 1 no step but the reset input changes CAL or CAL_VALID (R26, R180). -/
def Obligations.CalibrationIsImmutable : Prop :=
  ∀ s t : State, s.calValid = true → (∀ more, s.cmds ≠ .reset :: more) → step s = .next t →
    t.cal = s.cal ∧ t.calValid = true

/-- Each data register and array changes only under the commands the spec lists as its writers (R20, R21, R22, R24, R27,
R28, R29, R30, R232); the configuration and EMIS change under none. -/
def Obligations.DataOnlyByItsWriters : Prop :=
  ∀ (i : Instr) (s t : State), exec i s = .next t →
    (¬ Spec.writesXr i → t.xr = s.xr) ∧ (¬ Spec.writesFr i → t.fr = s.fr)
      ∧ (¬ Spec.writesTf i → t.tf = s.tf) ∧ (¬ Spec.writesTa i → t.ta = s.ta)
      ∧ (¬ Spec.writesImage i → t.ee = s.ee) ∧ (¬ Spec.acquires i → t.fb = s.fb)
      ∧ (¬ Spec.writesCal i → t.cal = s.cal)
      ∧ t.emis = s.emis ∧ t.cfg = s.cfg ∧ t.cmds = s.cmds

/-- Each flag and sequencing register changes only under the commands the spec lists as its writers (R32, R34, R35, R37 to
R40); WARN is never cleared by a command (R35); a command that ends leaves FS as it was or IDLE (R284). -/
def Obligations.FlagsOnlyByTheirWriters : Prop :=
  ∀ (i : Instr) (s t : State), exec i s = .next t →
    (i ≠ .init → t.inited = s.inited ∧ t.wEcc = s.wEcc ∧ t.wCfg = s.wCfg)
      ∧ (s.wEcc = true → t.wEcc = true) ∧ (s.wCfg = true → t.wCfg = true)
      ∧ (¬ Spec.writesImage i → t.eeState = s.eeState ∧ t.eccst = s.eccst)
      ∧ (¬ Spec.writesCal i → t.calValid = s.calValid)
      ∧ (¬ Spec.acquires i →
          t.fbValid = s.fbValid ∧ t.np = s.np ∧ t.att = s.att ∧ t.win = s.win ∧ t.subp = s.subp ∧ t.stw = s.stw)
      ∧ (¬ Spec.writesTf i → t.tfValid = s.tfValid) ∧ (¬ Spec.writesTa i → t.taValid = s.taValid)
      ∧ (¬ Spec.mayFault i → t.faulted = s.faulted)
      ∧ (¬ Spec.usesBus i → t.script = s.script ∧ t.reqs = s.reqs)
      ∧ (t.fs = s.fs ∨ t.fs = .idle)

/-- Every bus request a command issues is one R63 lists for it, a write of CFG_SEQ with a value R266 makes, and there are at
most as many as R335 says; commands that use no bus issue none. -/
def Obligations.BusRequestsAreTheListedOnes : Prop :=
  ∀ (i : Instr) (s t : State), exec i s = .next t →
    ∃ qs, t.reqs = qs ++ s.reqs ∧ (∀ q ∈ qs, Spec.mayRequest s.cfg i q)
      ∧ qs.length ≤ Spec.requestBound s.cfg i

/-- The read-only ports show the registers at the bits the spec gives them (R31, R32, R34, R35, R37, R38, R39), with the
numbers the spec gives EE_STATE (R32), ECCST (R34) and FS (R37); the port FR shows a binary32 value's bits (R15, R29). -/
def Obligations.PortsShowTheRegisters : Prop :=
  [EeState.empty, .raw, .decoded].map EeState.code = [0, 1, 2]
    ∧ [EccStatus.clean, .corrected, .uncorrectable].map EccStatus.code = [0, 1, 2]
    ∧ [FrState.idle, .pollStatus, .clearFlag, .readWindows, .repoll, .readCtrl].map FrState.code = [0, 1, 2, 3, 4, 5]
    ∧ ∀ s : State,
    s.xrPort = s.xr ∧ (∀ x, s.fr = .num x → s.frPort = x) ∧
    s.statusPort = s.status.code
      ∧ s.flagsPort.getLsbD 0 = s.inited ∧ (s.flagsPort.extractLsb' 1 2).toNat = s.eeState.code
      ∧ s.flagsPort.getLsbD 3 = s.calValid ∧ s.flagsPort.getLsbD 4 = s.fbValid
      ∧ s.flagsPort.getLsbD 5 = s.tfValid ∧ s.flagsPort.getLsbD 6 = s.taValid ∧ s.flagsPort.getLsbD 7 = s.faulted
      ∧ (s.csr2Port.extractLsb' 0 2).toNat = s.eccst.code
      ∧ s.csr2Port.getLsbD 2 = s.wEcc ∧ s.csr2Port.getLsbD 3 = s.wCfg
      ∧ (s.np ≤ 5 → s.att ≤ 5 → s.win ≤ 6 →
          (s.csr3Port.extractLsb' 0 3).toNat = s.fs.code ∧ (s.csr3Port.extractLsb' 3 3).toNat = s.np
            ∧ (s.csr3Port.extractLsb' 6 3).toNat = s.att ∧ (s.csr3Port.extractLsb' 9 3).toNat = s.win
            ∧ s.csr3Port.getLsbD 12 = s.subp)

/-- The reset values the spec gives (R43, R310); the values of what it leaves unspecified are not stated here. -/
def Obligations.ResetValues : Prop :=
  State.reset.xr = 0 ∧ State.reset.status = .ok ∧ State.reset.inited = false ∧ State.reset.calValid = false
    ∧ State.reset.fbValid = false ∧ State.reset.tfValid = false ∧ State.reset.taValid = false
    ∧ State.reset.faulted = false ∧ State.reset.eeState = .empty ∧ State.reset.eccst = .clean
    ∧ State.reset.wEcc = false ∧ State.reset.wCfg = false ∧ State.reset.fs = .idle ∧ State.reset.np = 0
    ∧ State.reset.att = 0 ∧ State.reset.win = 0 ∧ State.reset.subp = false ∧ State.reset.stw = 0
    ∧ State.reset.emis = State.reset.cfg.emissivityStored

/-- The reset input (R310, R311): every register the spec gives a reset value takes it, FAULT included; no bus request is
issued and nothing outside the block changes. -/
def Obligations.ResetInputResets : Prop :=
  ∀ (s : State) (more : List HostAct), s.cmds = .reset :: more →
    ∃ t, step s = .next t ∧ t.cmds = more ∧ t.reqs = s.reqs ∧ t.script = s.script ∧ t.cfg = s.cfg
      ∧ t.xr = 0 ∧ t.status = .ok ∧ t.inited = false ∧ t.calValid = false ∧ t.fbValid = false ∧ t.tfValid = false
      ∧ t.taValid = false ∧ t.faulted = false ∧ t.eeState = .empty ∧ t.eccst = .clean ∧ t.wEcc = false
      ∧ t.wCfg = false ∧ t.fs = .idle ∧ t.np = 0 ∧ t.att = 0 ∧ t.win = 0 ∧ t.subp = false ∧ t.stw = 0
      ∧ t.emis = s.cfg.emissivityStored

/-- With nothing to do the block waits, and nothing changes (R302). -/
def Obligations.BlockWaits : Prop := ∀ s : State, s.cmds = [] → step s = .next s

/-! ## The printed sub-formulas -/

/-- The default F_CPOFF, F_PIXOFF, F_SX and F_DEN2 (R227, R228, R231, R235), which are the spec's general knowledge (log 5);
subpage 1 takes the second offset table. -/
def Obligations.DefaultPixelFormulas : Prop :=
  ∀ (c : Config) (n : Numerics) (cal : Calibration) (p r : Nat) (sub : Bool) (ta vdd ac ir tar k1 to1 : FVal),
    c.num = n →
    (c.fCpOff = .printed →
        cpOffFormula c cal ta vdd =
          (((cal.cpOffset.toF n).mul n ((i2f n 1).add n ((cal.cpKta.toF n).mul n (ta.sub n (i2f n 25))))).mul n
            ((i2f n 1).add n ((cal.cpKv.toF n).mul n (vdd.sub n (literal n 33 10))))))
      ∧ (c.fPixOff = .printed →
        pixOffFormula c cal p sub ta vdd =
          (((i2f n (if sub then cal.offset1.read p else cal.offset0.read p)).mul n
              ((i2f n 1).add n ((cal.kta.read p).val.mul n (ta.sub n (i2f n 25))))).mul n
            ((i2f n 1).add n ((cal.kv.read p).val.mul n (vdd.sub n (literal n 33 10))))))
      ∧ (c.fSx = .printed →
        sxFormula c ac ir tar k1 =
          k1.mul n ((((ac.mul n ac).mul n ac).mul n (ir.add n (ac.mul n tar))).root4 n))
      ∧ (c.fDen2 = .printed →
        den2Formula c cal ac r to1 =
          ((ac.mul n (acorrFormula c cal r)).mul n
            ((i2f n 1).add n (((cal.ksTo.read r).toF n).mul n (to1.sub n ((cal.ct.read r).toF n))))))
end

