-- ==== Sys2Proof/Laws/Encoding.lean ====
section
/-! SUPPORT. What the fields of CW and FDW read back as, which rows the opcode map holds, and what the decoder does once
it has found its row: the lemmas a proof about decoding cites instead of unfolding the table. -/

namespace Sys2Proof

/-! ## The fields of a command word read back as they were put in -/

@[simp] theorem cwOp_cw (op : BitVec 6) (s : BitVec 1) (e : BitVec 6) (i : Word) : cwOp (cw op s e i) = op := by
  ext k hk
  simp only [cwOp, cw]
  interval_cases k <;> simp

@[simp] theorem cwImm_cw (op : BitVec 6) (s : BitVec 1) (e : BitVec 6) (i : Word) : cwImm (cw op s e i) = i := by
  ext k hk
  simp only [cwImm, cw]
  simp
  interval_cases k <;> simp

@[simp] theorem cwExp_cw (op : BitVec 6) (s : BitVec 1) (e : BitVec 6) (i : Word) : cwExp (cw op s e i) = e := by
  ext k hk
  simp only [cwExp, cw]
  simp
  interval_cases k <;> simp

@[simp] theorem cwS_cw (op : BitVec 6) (s : BitVec 1) (e : BitVec 6) (i : Word) : cwS (cw op s e i) = s := by
  ext k hk
  simp only [cwS, cw]
  simp
  interval_cases k
  simp

/-- The S bit of a flag reads back as the flag. -/
@[simp] theorem sBit_eq_one (b : Bool) : (sBit b == 1#1) = b := by cases b <;> rfl

/-- A descriptor word reads back as its descriptor. -/
@[simp] theorem descOf_fdw (d : Desc) : descOf (fdw d) = .ok d := by
  have h : (fdw d).extractLsb' 26 6 = 0#6 := by
    ext k hk; simp [fdw]; interval_cases k <;> simp
  have h1 : (fdw d).extractLsb' 0 16 = d.addr := by
    ext k hk; simp [fdw]; interval_cases k <;> simp
  have h2 : (fdw d).extractLsb' 16 4 = d.start := by
    ext k hk; simp [fdw]; interval_cases k <;> simp
  have h3 : (fdw d).extractLsb' 20 6 = d.width := by
    ext k hk; simp [fdw]; interval_cases k <;> simp
  simp [descOf, h, h1, h2, h3]

/-! ## The masks of R100 keep what is fixed and drop what is free -/

theorem cw_mask_sext (i : Word) : cw 0x04 0 0 i &&& (0xFFFF0000 : Word32) = (0x10000000 : Word32) := by
  ext k hk; simp [cw]; interval_cases k <;> simp

theorem cw_mask_eccw (i : Word) : cw 0x08 0 0 i &&& (0xFFFF0000 : Word32) = (0x20000000 : Word32) := by
  ext k hk; simp [cw]; interval_cases k <;> simp

theorem cw_mask_gett (i : Word) : cw 0x1B 0 0 i &&& (0xFFFF0000 : Word32) = (0x6C000000 : Word32) := by
  ext k hk; simp [cw]; interval_cases k <;> simp

theorem cw_mask_scdiv (e : BitVec 6) : cw 0x05 0 e 0 &&& (0xFE07FFFF : Word32) = (0x14000000 : Word32) := by
  revert e; decide +kernel

theorem cw_mask_scmul (e : BitVec 6) : cw 0x06 0 e 0 &&& (0xFE07FFFF : Word32) = (0x18000000 : Word32) := by
  revert e; decide +kernel

theorem cw_mask_xsgl (b : Bool) : cw 0x02 (sBit b) 0 0 &&& (0xFDFFFFFF : Word32) = (0x08000000 : Word32) := by
  revert b; decide +kernel

theorem cw_mask_xdbl (b : Bool) : cw 0x03 (sBit b) 0 0 &&& (0xFDFFFFFF : Word32) = (0x0C000000 : Word32) := by
  revert b; decide +kernel

/-! ## The rows of the opcode map -/

theorem opRow_xraw : opRow 0x01 = some ⟨0x01, .xraw, "XRAW", 1, 0x04000000, 0xFFFFFFFF⟩ := rfl
theorem opRow_xsgl : opRow 0x02 = some ⟨0x02, .xsgl, "XSGL", 1, 0x08000000, 0xFDFFFFFF⟩ := rfl
theorem opRow_xdbl : opRow 0x03 = some ⟨0x03, .xdbl, "XDBL", 2, 0x0C000000, 0xFDFFFFFF⟩ := rfl
theorem opRow_sext : opRow 0x04 = some ⟨0x04, .sext, "SEXT", 0, 0x10000000, 0xFFFF0000⟩ := rfl
theorem opRow_scdiv : opRow 0x05 = some ⟨0x05, .scdiv, "SCDIV", 0, 0x14000000, 0xFE07FFFF⟩ := rfl
theorem opRow_scmul : opRow 0x06 = some ⟨0x06, .scmul, "SCMUL", 0, 0x18000000, 0xFE07FFFF⟩ := rfl
theorem opRow_ldx : opRow 0x07 = some ⟨0x07, .ldx, "LDX", 1, 0x1C000000, 0xFFFFFFFF⟩ := rfl
theorem opRow_eccw : opRow 0x08 = some ⟨0x08, .eccw, "ECCW", 0, 0x20000000, 0xFFFF0000⟩ := rfl
theorem opRow_eccs : opRow 0x09 = some ⟨0x09, .eccs, "ECCS", 0, 0x24000000, 0xFFFFFFFF⟩ := rfl
theorem opRow_calx : opRow 0x0A = some ⟨0x0A, .calx, "CALX", 0, 0x28000000, 0xFFFFFFFF⟩ := rfl
theorem opRow_eeld : opRow 0x0B = some ⟨0x0B, .eeld, "EELD", 0, 0x2C000000, 0xFFFFFFFF⟩ := rfl
theorem opRow_frd : opRow 0x10 = some ⟨0x10, .frd, "FRD", 0, 0x40000000, 0xFFFFFFFF⟩ := rfl
theorem opRow_amb : opRow 0x11 = some ⟨0x11, .amb, "AMB", 0, 0x44000000, 0xFFFFFFFF⟩ := rfl
theorem opRow_calcto : opRow 0x12 = some ⟨0x12, .calcto, "CALCTO", 2, 0x48000000, 0xFFFFFFFF⟩ := rfl
theorem opRow_bpfix : opRow 0x13 = some ⟨0x13, .bpfix, "BPFIX", 0, 0x4C000000, 0xFFFFFFFF⟩ := rfl
theorem opRow_init : opRow 0x18 = some ⟨0x18, .init, "INIT", 0, 0x60000000, 0xFFFFFFFF⟩ := rfl
theorem opRow_rdframe : opRow 0x19 = some ⟨0x19, .rdframe, "RDFRAME", 0, 0x64000000, 0xFFFFFFFF⟩ := rfl
theorem opRow_calct : opRow 0x1A = some ⟨0x1A, .calct, "CALCT", 0, 0x68000000, 0xFFFFFFFF⟩ := rfl
theorem opRow_gett : opRow 0x1B = some ⟨0x1B, .gett, "GETT", 0, 0x6C000000, 0xFFFF0000⟩ := rfl
theorem opRow_getamb : opRow 0x1C = some ⟨0x1C, .getamb, "GETAMB", 0, 0x70000000, 0xFFFFFFFF⟩ := rfl

/-- A row found for an opcode is a row of the map, and has that opcode. -/
theorem opRow_mem {code : BitVec 6} {r : OpRow} (h : opRow code = some r) : r ∈ opTable ∧ r.code = code := by
  unfold opRow at h
  exact ⟨List.mem_of_find?_eq_some h, by simpa using List.find?_some h⟩

/-! ## The decoder, once it has found its row -/

/-- What the decoder does with a first word whose opcode has a row. -/
theorem decode_of_opRow {c : Word32} {rest : List Word32} {r : OpRow} (h : opRow (cwOp c) = some r) :
    decode (c :: rest) = if c &&& r.mask = r.pattern then buildInstr r.op c rest else .error .unusedFieldSet := by
  unfold decode
  simp only [h]

/-- The decoder on a command word built from its fields, whose opcode has a row and which passes its match. -/
theorem decode_cw {op : BitVec 6} {s : BitVec 1} {e : BitVec 6} {i : Word} {rest : List Word32} {code : BitVec 6} {o : Op}
    {name : String} {n : Nat} {pattern mask : Word32} (h : opRow op = some ⟨code, o, name, n, pattern, mask⟩)
    (hm : cw op s e i &&& mask = pattern) :
    decode (cw op s e i :: rest) = buildInstr o (cw op s e i) rest := by
  rw [decode_of_opRow ((cwOp_cw op s e i).symm ▸ h)]
  exact if_pos hm

/-- A first word whose opcode has no row forms no command. -/
theorem decode_of_opRow_none {c : Word32} {rest : List Word32} (h : opRow (cwOp c) = none) :
    decode (c :: rest) = .error .unknownOpcode := by
  unfold decode
  simp only [h]

/-- How many words follow a command word whose opcode has a row. -/
theorem wordsAfterCw_of_opRow {c : Word32} {r : OpRow} (h : opRow (cwOp c) = some r) :
    wordsAfterCw c = r.wordsAfter := by
  unfold wordsAfterCw
  simp only [h]

end Sys2Proof
end

