-- ==== Sys2Proof/Laws/Float.lean ====
section
/-! SUPPORT. A value stored in a register reads back as it was, whatever NUM is. In the default NUM every operator gives a
finite binary32 value or an unspecified one. -/

namespace Sys2Proof

/-! ## Registers -/

/-- A value that a register takes reads back as it was. -/
@[simp] theorem FVal.val_toWord (v : FVal) (free : F32) : (v.toWord free).val = v := by cases v <;> rfl

@[simp] theorem FWord.val_num (x : F32) : (FWord.num x).val = .num x := rfl
@[simp] theorem FWord.val_free (x : F32) : (FWord.free x).val = .unspecified := rfl
@[simp] theorem FWord.val_coded (m : Nat) : (FWord.coded m).val = .coded m := rfl

/-- A register that holds a binary32 value shows its bits, whatever NUM is. -/
@[simp] theorem FWord.port_num (n : Numerics) (x : F32) : (FWord.num x).port n = x := rfl
@[simp] theorem FWord.port_free (n : Numerics) (x : F32) : (FWord.free x).port n = x := rfl

/-! ## The default NUM -/

/-- What the default NUM gives: an unspecified value or a finite one (log 7). -/
def FVal.Sound (v : FVal) : Prop := v = .unspecified ∨ ∃ x, v = .num x ∧ F32.finite x = true

theorem FVal.sound_unspecified : FVal.Sound .unspecified := .inl rfl

theorem FVal.sound_num {x : F32} (h : F32.finite x = true) : FVal.Sound (.num x) := .inr ⟨x, rfl, h⟩

/-- The exponent field of a number built from a sign and a magnitude pattern. -/
theorem F32.expField_ofNat {b : Nat} {neg : Bool} (hb : b < 2 ^ 31) :
    F32.expField (BitVec.ofNat 32 (b + signBits neg)) = b / 2 ^ 23 := by
  unfold F32.expField signBits
  rw [BitVec.toNat_ofNat]
  cases neg <;> simp <;> omega

/-- Rounding gives a finite value or none (log 7). -/
theorem F32.ofRatio_sound (neg : Bool) (n d : Nat) : (F32.ofRatio neg n d).Sound := by
  unfold F32.ofRatio
  simp only
  split
  · next hb =>
    refine FVal.sound_num ?_
    unfold F32.finite
    rw [F32.expField_ofNat (by omega)]
    simp
    omega
  · exact FVal.sound_unspecified

theorem F32.ofUnits_sound (z : Int) : (F32.ofUnits z).Sound := F32.ofRatio_sound _ _ _

/-- A result from two values is sound when the operation gives sound results on finite ones. -/
theorem FVal.lift2_sound {f : F32 → F32 → FVal}
    (h : ∀ x y, F32.finite x = true → F32.finite y = true → (f x y).Sound) (a b : FVal) :
    (FVal.lift2 f a b).Sound := by
  unfold FVal.lift2
  split
  · split
    · next hxy =>
      rw [Bool.and_eq_true] at hxy
      exact h _ _ hxy.1 hxy.2
    · exact FVal.sound_unspecified
  · exact FVal.sound_unspecified

theorem FVal.lift1_sound {f : F32 → FVal} (h : ∀ x, F32.finite x = true → (f x).Sound) (a : FVal) :
    (FVal.lift1 f a).Sound := by
  unfold FVal.lift1
  split
  · split
    · next hx => exact h _ hx
    · exact FVal.sound_unspecified
  · exact FVal.sound_unspecified

theorem F32.add_sound (x y : F32) : (F32.add x y).Sound := by
  unfold F32.add
  split
  · split <;> exact FVal.sound_num (by decide)
  · exact F32.ofUnits_sound _

theorem F32.sub_sound (x y : F32) : (F32.sub x y).Sound := F32.add_sound _ _

theorem F32.mul_sound (x y : F32) : (F32.mul x y).Sound := F32.ofRatio_sound _ _ _

theorem F32.div_sound (x y : F32) : (F32.div x y).Sound := by
  unfold F32.div
  split
  · exact FVal.sound_unspecified
  · exact F32.ofRatio_sound _ _ _

theorem F32.sqrt_sound {x : F32} (hx : F32.finite x = true) : (F32.sqrt x).Sound := by
  unfold F32.sqrt
  split
  · exact FVal.sound_num hx
  · split
    · exact FVal.sound_unspecified
    · exact F32.ofRatio_sound _ _ _

theorem FVal.add_sound (a b : FVal) : (a.add .binary32 b).Sound := FVal.lift2_sound (fun x y _ _ => F32.add_sound x y) a b
theorem FVal.sub_sound (a b : FVal) : (a.sub .binary32 b).Sound := FVal.lift2_sound (fun x y _ _ => F32.sub_sound x y) a b
theorem FVal.mul_sound (a b : FVal) : (a.mul .binary32 b).Sound := FVal.lift2_sound (fun x y _ _ => F32.mul_sound x y) a b
theorem FVal.div_sound (a b : FVal) : (a.div .binary32 b).Sound := FVal.lift2_sound (fun x y _ _ => F32.div_sound x y) a b
theorem FVal.root4_sound (a : FVal) : (a.root4 .binary32).Sound := FVal.lift1_sound (fun _ h => F32.sqrt_sound h) _
theorem FVal.checked_sound (a : FVal) : (a.checked .binary32).Sound := FVal.lift1_sound (fun _ h => FVal.sound_num h) a
theorem FVal.ofBits_sound (x : F32) : (FVal.ofBits .binary32 x).Sound := FVal.checked_sound _
theorem i2f_sound (z : Int) : (i2f .binary32 z).Sound := F32.ofUnits_sound _

/-! ## Unspecified operands (R16) -/

/-- What is computed from an unspecified first operand is unspecified, whatever NUM is. -/
theorem Numerics.op2_unspecified_left (n : Numerics) (f : F32 → F32 → FVal) (g : Nat → FVal → FVal → FVal) (b : FVal) :
    n.op2 f g .unspecified b = .unspecified := by
  cases n <;> simp [Numerics.op2, FVal.lift2]

/-- And from an unspecified second one. -/
theorem Numerics.op2_unspecified_right (n : Numerics) (f : F32 → F32 → FVal) (g : Nat → FVal → FVal → FVal) (a : FVal) :
    n.op2 f g a .unspecified = .unspecified := by
  cases n <;> cases a <;> simp [Numerics.op2, FVal.lift2]

end Sys2Proof
end

