-- ==== Sys2Proof/Laws/Memory.lean ====
section
/-! SUPPORT. What reading gives after each memory operation, and that every operation keeps the canonical form and the
bound on indices. -/

namespace Sys2Proof

variable {α : Type} [Inhabited α] [DecidableEq α]

omit [DecidableEq α] in
@[simp] theorem Memory.read_nil (i : Nat) : Memory.read ([] : Memory α) i = Memory.unlisted α := rfl

omit [DecidableEq α] in
theorem Memory.read_cons (a : Nat) (v : α) (rest : Memory α) (i : Nat) :
    Memory.read ((a, v) :: rest) i = if a = i then v else Memory.read rest i := rfl

@[simp] theorem Memory.wf_nil : Memory.wf ([] : Memory α) = true := rfl

theorem Memory.wfFrom_cons (i a : Nat) (v : α) (rest : Memory α) :
    Memory.wfFrom i ((a, v) :: rest) = true ↔ i ≤ a ∧ v ≠ Memory.unlisted α ∧ Memory.wfFrom (a + 1) rest = true := by
  simp [Memory.wfFrom, and_assoc]

/-- A canonical form from i on is one from any lower index on. -/
theorem Memory.wfFrom_mono {i j : Nat} (h : j ≤ i) {m : Memory α} (hm : Memory.wfFrom i m = true) :
    Memory.wfFrom j m = true := by
  cases m with
  | nil => rfl
  | cons e rest =>
    obtain ⟨a, v⟩ := e
    rw [Memory.wfFrom_cons] at hm ⊢
    exact ⟨by omega, hm.2⟩

/-- Below the lowest index a canonical form lists, it reads as unlisted. -/
theorem Memory.read_lt_wfFrom {i j : Nat} (h : j < i) {m : Memory α} (hm : Memory.wfFrom i m = true) :
    Memory.read m j = Memory.unlisted α := by
  induction m generalizing i with
  | nil => rfl
  | cons e rest ih =>
    obtain ⟨a, v⟩ := e
    rw [Memory.wfFrom_cons] at hm
    rw [Memory.read_cons, if_neg (by omega)]
    exact ih (by omega) hm.2.2

/-- Reading after an element was put in front of a form that starts above it. -/
theorem Memory.read_put {i j : Nat} {v : α} {m : Memory α} (hm : Memory.wfFrom (i + 1) m = true) :
    Memory.read (Memory.put i v m) j = if i = j then v else Memory.read m j := by
  unfold Memory.put
  split
  · next hv =>
    split
    · next hij => rw [hv, Memory.read_lt_wfFrom (i := i + 1) (by omega) hm]
    · rfl
  · rfl

theorem Memory.wfFrom_put {i k : Nat} {v : α} {m : Memory α} (hk : k ≤ i) (hm : Memory.wfFrom (i + 1) m = true) :
    Memory.wfFrom k (Memory.put i v m) = true := by
  unfold Memory.put
  split
  · exact Memory.wfFrom_mono (by omega) hm
  · next hv => exact (Memory.wfFrom_cons _ _ _ _).2 ⟨hk, hv, hm⟩

/-- A write keeps the canonical form. -/
theorem Memory.wfFrom_write {i k : Nat} {v : α} {m : Memory α} (hk : k ≤ i) (hm : Memory.wfFrom k m = true) :
    Memory.wfFrom k (Memory.write m i v) = true := by
  induction m generalizing k with
  | nil => exact Memory.wfFrom_put hk rfl
  | cons e rest ih =>
    obtain ⟨a, w⟩ := e
    have h := (Memory.wfFrom_cons _ _ _ _).1 hm
    unfold Memory.write
    split
    · next hai => exact (Memory.wfFrom_cons _ _ _ _).2 ⟨h.1, h.2.1, ih (by omega) h.2.2⟩
    · split
      · next hai => subst hai; exact Memory.wfFrom_put hk h.2.2
      · exact Memory.wfFrom_put hk ((Memory.wfFrom_cons _ _ _ _).2 ⟨by omega, h.2⟩)

theorem Memory.read_write_from {i j k : Nat} {v : α} {m : Memory α} (hk : k ≤ i) (hm : Memory.wfFrom k m = true) :
    Memory.read (Memory.write m i v) j = if i = j then v else Memory.read m j := by
  induction m generalizing k with
  | nil => exact Memory.read_put rfl
  | cons e rest ih =>
    obtain ⟨a, w⟩ := e
    have h := (Memory.wfFrom_cons _ _ _ _).1 hm
    unfold Memory.write
    split
    · next hai =>
      rw [Memory.read_cons, Memory.read_cons, ih (k := a + 1) (by omega) h.2.2]
      by_cases haj : a = j
      · rw [if_pos haj, if_neg (by omega)]; simp [haj]
      · rw [if_neg haj]; simp [haj]
    · split
      · next hai =>
        subst hai
        rw [Memory.read_put h.2.2, Memory.read_cons]
        by_cases haj : a = j <;> simp [haj]
      · exact Memory.read_put ((Memory.wfFrom_cons _ _ _ _).2 ⟨by omega, h.2⟩)

/-- Reading after a write: the value written there, every other element as before. -/
theorem Memory.read_write {i j : Nat} {v : α} {m : Memory α} (hm : m.wf = true) :
    Memory.read (Memory.write m i v) j = if i = j then v else Memory.read m j :=
  Memory.read_write_from (Nat.zero_le i) hm

/-- A write keeps the canonical form. -/
theorem Memory.wf_write {i : Nat} {v : α} {m : Memory α} (hm : m.wf = true) : (Memory.write m i v).wf = true :=
  Memory.wfFrom_write (Nat.zero_le i) hm

/-- A block write keeps the canonical form. -/
theorem Memory.wf_writeList {vs : List α} {i : Nat} {m : Memory α} (hm : m.wf = true) :
    (Memory.writeList m i vs).wf = true := by
  induction vs generalizing i m with
  | nil => exact hm
  | cons v vs ih => exact ih (Memory.wf_write hm)

/-- Reading after a block write: the block's elements, every other element as before. -/
theorem Memory.read_writeList {vs : List α} {i j : Nat} {m : Memory α} (hm : m.wf = true) :
    Memory.read (Memory.writeList m i vs) j =
      if i ≤ j ∧ j < i + vs.length then vs.getD (j - i) (Memory.unlisted α) else Memory.read m j := by
  induction vs generalizing i m with
  | nil => simp [Memory.writeList]
  | cons v vs ih =>
    unfold Memory.writeList
    rw [ih (Memory.wf_write hm), Memory.read_write hm]
    by_cases hij : i = j
    · subst hij
      simp
    · by_cases hlt : i + 1 ≤ j ∧ j < i + 1 + vs.length
      · rw [if_pos hlt, if_pos (by simp; omega)]
        obtain ⟨n, hn⟩ : ∃ n, j - i = n + 1 := ⟨j - i - 1, by omega⟩
        rw [hn, show j - (i + 1) = n by omega]
        simp
      · rw [if_neg hlt, if_neg hij, if_neg (by simp; omega)]

theorem Memory.wfFrom_ofListFrom (i : Nat) (vs : List α) : Memory.wfFrom i (Memory.ofListFrom i vs) = true := by
  induction vs generalizing i with
  | nil => rfl
  | cons v vs ih => exact Memory.wfFrom_put (Nat.le_refl i) (ih (i + 1))

theorem Memory.read_ofListFrom (i j : Nat) (vs : List α) :
    Memory.read (Memory.ofListFrom i vs) j =
      if i ≤ j then vs.getD (j - i) (Memory.unlisted α) else Memory.unlisted α := by
  induction vs generalizing i with
  | nil => simp [Memory.ofListFrom]
  | cons v vs ih =>
    unfold Memory.ofListFrom
    rw [Memory.read_put (Memory.wfFrom_ofListFrom _ _), ih]
    by_cases hij : i = j
    · subst hij; simp
    · rw [if_neg hij]
      by_cases hlt : i + 1 ≤ j
      · obtain ⟨n, hn⟩ : ∃ n, j - i = n + 1 := ⟨j - i - 1, by omega⟩
        rw [if_pos hlt, if_pos (by omega), hn, show j - (i + 1) = n by omega]
        simp
      · rw [if_neg hlt, if_neg (by omega)]

/-- A space made from a list is canonical. -/
@[simp] theorem Memory.wf_ofList (vs : List α) : (Memory.ofList vs).wf = true := Memory.wfFrom_ofListFrom 0 vs

/-- Reading a space made from a list. -/
theorem Memory.read_ofList (vs : List α) (j : Nat) :
    Memory.read (Memory.ofList vs) j = vs.getD j (Memory.unlisted α) := by
  unfold Memory.ofList
  rw [Memory.read_ofListFrom]
  simp

/-- A space made from a function is canonical. -/
@[simp] theorem Memory.wf_ofFn (n : Nat) (f : Nat → α) : (Memory.ofFn n f).wf = true := Memory.wf_ofList _

/-- Reading a space made from a function. -/
theorem Memory.read_ofFn (n : Nat) (f : Nat → α) (j : Nat) :
    Memory.read (Memory.ofFn n f) j = if j < n then f j else Memory.unlisted α := by
  unfold Memory.ofFn
  rw [Memory.read_ofList, List.getD_eq_getElem?_getD, List.getElem?_map]
  by_cases h : j < n
  · simp [h]
  · simp [h]

/-! ## The bound on indices -/

omit [Inhabited α] [DecidableEq α] in
theorem Memory.below_cons (n a : Nat) (v : α) (rest : Memory α) :
    Memory.below n ((a, v) :: rest) = true ↔ a < n ∧ Memory.below n rest = true := by
  simp [Memory.below]

theorem Memory.below_put {n i : Nat} {v : α} {m : Memory α} (hi : i < n) (hm : m.below n = true) :
    (Memory.put i v m).below n = true := by
  unfold Memory.put
  split
  · exact hm
  · exact (Memory.below_cons _ _ _ _).2 ⟨hi, hm⟩

/-- A write below the bound keeps the bound. -/
theorem Memory.below_write {n i : Nat} {v : α} {m : Memory α} (hi : i < n) (hm : m.below n = true) :
    (Memory.write m i v).below n = true := by
  induction m with
  | nil => exact Memory.below_put hi hm
  | cons e rest ih =>
    obtain ⟨a, w⟩ := e
    have h := (Memory.below_cons _ _ _ _).1 hm
    unfold Memory.write
    split
    · exact (Memory.below_cons _ _ _ _).2 ⟨h.1, ih h.2⟩
    · split
      · exact Memory.below_put hi h.2
      · exact Memory.below_put hi hm

/-- A block write that ends below the bound keeps the bound. -/
theorem Memory.below_writeList {n i : Nat} {vs : List α} {m : Memory α} (hi : i + vs.length ≤ n)
    (hm : m.below n = true) : (Memory.writeList m i vs).below n = true := by
  induction vs generalizing i m with
  | nil => exact hm
  | cons v vs ih =>
    simp only [List.length_cons] at hi
    exact ih (by omega) (Memory.below_write (by omega) hm)

theorem Memory.below_ofListFrom {n i : Nat} {vs : List α} (hi : i + vs.length ≤ n) :
    (Memory.ofListFrom i vs).below n = true := by
  induction vs generalizing i with
  | nil => rfl
  | cons v vs ih =>
    simp only [List.length_cons] at hi
    exact Memory.below_put (by omega) (ih (by omega))

/-- A space made from a list lists no index beyond the list. -/
theorem Memory.below_ofList {n : Nat} {vs : List α} (h : vs.length ≤ n) : (Memory.ofList vs).below n = true :=
  Memory.below_ofListFrom (by omega)

/-- A space of n elements lists no index from n on. -/
@[simp] theorem Memory.below_ofFn (n : Nat) (f : Nat → α) : (Memory.ofFn n f).below n = true :=
  Memory.below_ofList (by simp)

end Sys2Proof
end

