-- ==== Sys2Proof/Laws/State.lean ====
section
/-! SUPPORT. One lemma per field per update of the state, each true by unfolding that update once, so that no later proof unfolds a record
update. -/

namespace Sys2Proof.Machine

/-! ## State.raise -/

@[simp] theorem State.raise_ee (s : State) (x : Status) : (s.raise x).ee = s.ee := rfl
@[simp] theorem State.raise_fb (s : State) (x : Status) : (s.raise x).fb = s.fb := rfl
@[simp] theorem State.raise_tf (s : State) (x : Status) : (s.raise x).tf = s.tf := rfl
@[simp] theorem State.raise_cal (s : State) (x : Status) : (s.raise x).cal = s.cal := rfl
@[simp] theorem State.raise_ta (s : State) (x : Status) : (s.raise x).ta = s.ta := rfl
@[simp] theorem State.raise_xr (s : State) (x : Status) : (s.raise x).xr = s.xr := rfl
@[simp] theorem State.raise_fr (s : State) (x : Status) : (s.raise x).fr = s.fr := rfl
@[simp] theorem State.raise_emis (s : State) (x : Status) : (s.raise x).emis = s.emis := rfl
@[simp] theorem State.raise_status (s : State) (x : Status) : (s.raise x).status = x := rfl
@[simp] theorem State.raise_inited (s : State) (x : Status) : (s.raise x).inited = s.inited := rfl
@[simp] theorem State.raise_eeState (s : State) (x : Status) : (s.raise x).eeState = s.eeState := rfl
@[simp] theorem State.raise_calValid (s : State) (x : Status) : (s.raise x).calValid = s.calValid := rfl
@[simp] theorem State.raise_fbValid (s : State) (x : Status) : (s.raise x).fbValid = s.fbValid := rfl
@[simp] theorem State.raise_tfValid (s : State) (x : Status) : (s.raise x).tfValid = s.tfValid := rfl
@[simp] theorem State.raise_taValid (s : State) (x : Status) : (s.raise x).taValid = s.taValid := rfl
@[simp] theorem State.raise_faulted (s : State) (x : Status) : (s.raise x).faulted = (s.faulted || x.contract) := rfl
@[simp] theorem State.raise_eccst (s : State) (x : Status) : (s.raise x).eccst = s.eccst := rfl
@[simp] theorem State.raise_wEcc (s : State) (x : Status) : (s.raise x).wEcc = s.wEcc := rfl
@[simp] theorem State.raise_wCfg (s : State) (x : Status) : (s.raise x).wCfg = s.wCfg := rfl
@[simp] theorem State.raise_fs (s : State) (x : Status) : (s.raise x).fs = .idle := rfl
@[simp] theorem State.raise_np (s : State) (x : Status) : (s.raise x).np = s.np := rfl
@[simp] theorem State.raise_att (s : State) (x : Status) : (s.raise x).att = s.att := rfl
@[simp] theorem State.raise_win (s : State) (x : Status) : (s.raise x).win = s.win := rfl
@[simp] theorem State.raise_subp (s : State) (x : Status) : (s.raise x).subp = s.subp := rfl
@[simp] theorem State.raise_stw (s : State) (x : Status) : (s.raise x).stw = s.stw := rfl
@[simp] theorem State.raise_cfg (s : State) (x : Status) : (s.raise x).cfg = s.cfg := rfl
@[simp] theorem State.raise_script (s : State) (x : Status) : (s.raise x).script = s.script := rfl
@[simp] theorem State.raise_reqs (s : State) (x : Status) : (s.raise x).reqs = s.reqs := rfl
@[simp] theorem State.raise_cmds (s : State) (x : Status) : (s.raise x).cmds = s.cmds := rfl
@[simp] theorem State.raise_draws (s : State) (x : Status) : (s.raise x).draws = s.draws := rfl

/-! ## State.refuse -/

@[simp] theorem State.refuse_ee (s : State) (x : Status) : (s.refuse x).ee = s.ee := rfl
@[simp] theorem State.refuse_fb (s : State) (x : Status) : (s.refuse x).fb = s.fb := rfl
@[simp] theorem State.refuse_tf (s : State) (x : Status) : (s.refuse x).tf = s.tf := rfl
@[simp] theorem State.refuse_cal (s : State) (x : Status) : (s.refuse x).cal = s.cal := rfl
@[simp] theorem State.refuse_ta (s : State) (x : Status) : (s.refuse x).ta = s.ta := rfl
@[simp] theorem State.refuse_xr (s : State) (x : Status) : (s.refuse x).xr = s.xr := rfl
@[simp] theorem State.refuse_fr (s : State) (x : Status) : (s.refuse x).fr = s.fr := rfl
@[simp] theorem State.refuse_emis (s : State) (x : Status) : (s.refuse x).emis = s.emis := rfl
@[simp] theorem State.refuse_status (s : State) (x : Status) : (s.refuse x).status = x := rfl
@[simp] theorem State.refuse_inited (s : State) (x : Status) : (s.refuse x).inited = s.inited := rfl
@[simp] theorem State.refuse_eeState (s : State) (x : Status) : (s.refuse x).eeState = s.eeState := rfl
@[simp] theorem State.refuse_calValid (s : State) (x : Status) : (s.refuse x).calValid = s.calValid := rfl
@[simp] theorem State.refuse_fbValid (s : State) (x : Status) : (s.refuse x).fbValid = s.fbValid := rfl
@[simp] theorem State.refuse_tfValid (s : State) (x : Status) : (s.refuse x).tfValid = s.tfValid := rfl
@[simp] theorem State.refuse_taValid (s : State) (x : Status) : (s.refuse x).taValid = s.taValid := rfl
@[simp] theorem State.refuse_faulted (s : State) (x : Status) : (s.refuse x).faulted = s.faulted := rfl
@[simp] theorem State.refuse_eccst (s : State) (x : Status) : (s.refuse x).eccst = s.eccst := rfl
@[simp] theorem State.refuse_wEcc (s : State) (x : Status) : (s.refuse x).wEcc = s.wEcc := rfl
@[simp] theorem State.refuse_wCfg (s : State) (x : Status) : (s.refuse x).wCfg = s.wCfg := rfl
@[simp] theorem State.refuse_fs (s : State) (x : Status) : (s.refuse x).fs = s.fs := rfl
@[simp] theorem State.refuse_np (s : State) (x : Status) : (s.refuse x).np = s.np := rfl
@[simp] theorem State.refuse_att (s : State) (x : Status) : (s.refuse x).att = s.att := rfl
@[simp] theorem State.refuse_win (s : State) (x : Status) : (s.refuse x).win = s.win := rfl
@[simp] theorem State.refuse_subp (s : State) (x : Status) : (s.refuse x).subp = s.subp := rfl
@[simp] theorem State.refuse_stw (s : State) (x : Status) : (s.refuse x).stw = s.stw := rfl
@[simp] theorem State.refuse_cfg (s : State) (x : Status) : (s.refuse x).cfg = s.cfg := rfl
@[simp] theorem State.refuse_script (s : State) (x : Status) : (s.refuse x).script = s.script := rfl
@[simp] theorem State.refuse_reqs (s : State) (x : Status) : (s.refuse x).reqs = s.reqs := rfl
@[simp] theorem State.refuse_cmds (s : State) (x : Status) : (s.refuse x).cmds = s.cmds := rfl
@[simp] theorem State.refuse_draws (s : State) (x : Status) : (s.refuse x).draws = s.draws := rfl

/-! ## State.done -/

@[simp] theorem State.done_ee (s : State) : s.done.ee = s.ee := rfl
@[simp] theorem State.done_fb (s : State) : s.done.fb = s.fb := rfl
@[simp] theorem State.done_tf (s : State) : s.done.tf = s.tf := rfl
@[simp] theorem State.done_cal (s : State) : s.done.cal = s.cal := rfl
@[simp] theorem State.done_ta (s : State) : s.done.ta = s.ta := rfl
@[simp] theorem State.done_xr (s : State) : s.done.xr = s.xr := rfl
@[simp] theorem State.done_fr (s : State) : s.done.fr = s.fr := rfl
@[simp] theorem State.done_emis (s : State) : s.done.emis = s.emis := rfl
@[simp] theorem State.done_status (s : State) : s.done.status = .ok := rfl
@[simp] theorem State.done_inited (s : State) : s.done.inited = s.inited := rfl
@[simp] theorem State.done_eeState (s : State) : s.done.eeState = s.eeState := rfl
@[simp] theorem State.done_calValid (s : State) : s.done.calValid = s.calValid := rfl
@[simp] theorem State.done_fbValid (s : State) : s.done.fbValid = s.fbValid := rfl
@[simp] theorem State.done_tfValid (s : State) : s.done.tfValid = s.tfValid := rfl
@[simp] theorem State.done_taValid (s : State) : s.done.taValid = s.taValid := rfl
@[simp] theorem State.done_faulted (s : State) : s.done.faulted = s.faulted := rfl
@[simp] theorem State.done_eccst (s : State) : s.done.eccst = s.eccst := rfl
@[simp] theorem State.done_wEcc (s : State) : s.done.wEcc = s.wEcc := rfl
@[simp] theorem State.done_wCfg (s : State) : s.done.wCfg = s.wCfg := rfl
@[simp] theorem State.done_fs (s : State) : s.done.fs = s.fs := rfl
@[simp] theorem State.done_np (s : State) : s.done.np = s.np := rfl
@[simp] theorem State.done_att (s : State) : s.done.att = s.att := rfl
@[simp] theorem State.done_win (s : State) : s.done.win = s.win := rfl
@[simp] theorem State.done_subp (s : State) : s.done.subp = s.subp := rfl
@[simp] theorem State.done_stw (s : State) : s.done.stw = s.stw := rfl
@[simp] theorem State.done_cfg (s : State) : s.done.cfg = s.cfg := rfl
@[simp] theorem State.done_script (s : State) : s.done.script = s.script := rfl
@[simp] theorem State.done_reqs (s : State) : s.done.reqs = s.reqs := rfl
@[simp] theorem State.done_cmds (s : State) : s.done.cmds = s.cmds := rfl
@[simp] theorem State.done_draws (s : State) : s.done.draws = s.draws := rfl

/-! ## State.setXr -/

@[simp] theorem State.setXr_ee (s : State) (z : Int) : (s.setXr z).ee = s.ee := rfl
@[simp] theorem State.setXr_fb (s : State) (z : Int) : (s.setXr z).fb = s.fb := rfl
@[simp] theorem State.setXr_tf (s : State) (z : Int) : (s.setXr z).tf = s.tf := rfl
@[simp] theorem State.setXr_cal (s : State) (z : Int) : (s.setXr z).cal = s.cal := rfl
@[simp] theorem State.setXr_ta (s : State) (z : Int) : (s.setXr z).ta = s.ta := rfl
@[simp] theorem State.setXr_xr (s : State) (z : Int) : (s.setXr z).xr = BitVec.ofInt 64 z := rfl
@[simp] theorem State.setXr_fr (s : State) (z : Int) : (s.setXr z).fr = s.fr := rfl
@[simp] theorem State.setXr_emis (s : State) (z : Int) : (s.setXr z).emis = s.emis := rfl
@[simp] theorem State.setXr_status (s : State) (z : Int) : (s.setXr z).status = s.status := rfl
@[simp] theorem State.setXr_inited (s : State) (z : Int) : (s.setXr z).inited = s.inited := rfl
@[simp] theorem State.setXr_eeState (s : State) (z : Int) : (s.setXr z).eeState = s.eeState := rfl
@[simp] theorem State.setXr_calValid (s : State) (z : Int) : (s.setXr z).calValid = s.calValid := rfl
@[simp] theorem State.setXr_fbValid (s : State) (z : Int) : (s.setXr z).fbValid = s.fbValid := rfl
@[simp] theorem State.setXr_tfValid (s : State) (z : Int) : (s.setXr z).tfValid = s.tfValid := rfl
@[simp] theorem State.setXr_taValid (s : State) (z : Int) : (s.setXr z).taValid = s.taValid := rfl
@[simp] theorem State.setXr_faulted (s : State) (z : Int) : (s.setXr z).faulted = s.faulted := rfl
@[simp] theorem State.setXr_eccst (s : State) (z : Int) : (s.setXr z).eccst = s.eccst := rfl
@[simp] theorem State.setXr_wEcc (s : State) (z : Int) : (s.setXr z).wEcc = s.wEcc := rfl
@[simp] theorem State.setXr_wCfg (s : State) (z : Int) : (s.setXr z).wCfg = s.wCfg := rfl
@[simp] theorem State.setXr_fs (s : State) (z : Int) : (s.setXr z).fs = s.fs := rfl
@[simp] theorem State.setXr_np (s : State) (z : Int) : (s.setXr z).np = s.np := rfl
@[simp] theorem State.setXr_att (s : State) (z : Int) : (s.setXr z).att = s.att := rfl
@[simp] theorem State.setXr_win (s : State) (z : Int) : (s.setXr z).win = s.win := rfl
@[simp] theorem State.setXr_subp (s : State) (z : Int) : (s.setXr z).subp = s.subp := rfl
@[simp] theorem State.setXr_stw (s : State) (z : Int) : (s.setXr z).stw = s.stw := rfl
@[simp] theorem State.setXr_cfg (s : State) (z : Int) : (s.setXr z).cfg = s.cfg := rfl
@[simp] theorem State.setXr_script (s : State) (z : Int) : (s.setXr z).script = s.script := rfl
@[simp] theorem State.setXr_reqs (s : State) (z : Int) : (s.setXr z).reqs = s.reqs := rfl
@[simp] theorem State.setXr_cmds (s : State) (z : Int) : (s.setXr z).cmds = s.cmds := rfl
@[simp] theorem State.setXr_draws (s : State) (z : Int) : (s.setXr z).draws = s.draws := rfl

/-! ## State.setFr -/

@[simp] theorem State.setFr_ee (s : State) (w : FWord) : (s.setFr w).ee = s.ee := rfl
@[simp] theorem State.setFr_fb (s : State) (w : FWord) : (s.setFr w).fb = s.fb := rfl
@[simp] theorem State.setFr_tf (s : State) (w : FWord) : (s.setFr w).tf = s.tf := rfl
@[simp] theorem State.setFr_cal (s : State) (w : FWord) : (s.setFr w).cal = s.cal := rfl
@[simp] theorem State.setFr_ta (s : State) (w : FWord) : (s.setFr w).ta = s.ta := rfl
@[simp] theorem State.setFr_xr (s : State) (w : FWord) : (s.setFr w).xr = s.xr := rfl
@[simp] theorem State.setFr_fr (s : State) (w : FWord) : (s.setFr w).fr = w := rfl
@[simp] theorem State.setFr_emis (s : State) (w : FWord) : (s.setFr w).emis = s.emis := rfl
@[simp] theorem State.setFr_status (s : State) (w : FWord) : (s.setFr w).status = s.status := rfl
@[simp] theorem State.setFr_inited (s : State) (w : FWord) : (s.setFr w).inited = s.inited := rfl
@[simp] theorem State.setFr_eeState (s : State) (w : FWord) : (s.setFr w).eeState = s.eeState := rfl
@[simp] theorem State.setFr_calValid (s : State) (w : FWord) : (s.setFr w).calValid = s.calValid := rfl
@[simp] theorem State.setFr_fbValid (s : State) (w : FWord) : (s.setFr w).fbValid = s.fbValid := rfl
@[simp] theorem State.setFr_tfValid (s : State) (w : FWord) : (s.setFr w).tfValid = s.tfValid := rfl
@[simp] theorem State.setFr_taValid (s : State) (w : FWord) : (s.setFr w).taValid = s.taValid := rfl
@[simp] theorem State.setFr_faulted (s : State) (w : FWord) : (s.setFr w).faulted = s.faulted := rfl
@[simp] theorem State.setFr_eccst (s : State) (w : FWord) : (s.setFr w).eccst = s.eccst := rfl
@[simp] theorem State.setFr_wEcc (s : State) (w : FWord) : (s.setFr w).wEcc = s.wEcc := rfl
@[simp] theorem State.setFr_wCfg (s : State) (w : FWord) : (s.setFr w).wCfg = s.wCfg := rfl
@[simp] theorem State.setFr_fs (s : State) (w : FWord) : (s.setFr w).fs = s.fs := rfl
@[simp] theorem State.setFr_np (s : State) (w : FWord) : (s.setFr w).np = s.np := rfl
@[simp] theorem State.setFr_att (s : State) (w : FWord) : (s.setFr w).att = s.att := rfl
@[simp] theorem State.setFr_win (s : State) (w : FWord) : (s.setFr w).win = s.win := rfl
@[simp] theorem State.setFr_subp (s : State) (w : FWord) : (s.setFr w).subp = s.subp := rfl
@[simp] theorem State.setFr_stw (s : State) (w : FWord) : (s.setFr w).stw = s.stw := rfl
@[simp] theorem State.setFr_cfg (s : State) (w : FWord) : (s.setFr w).cfg = s.cfg := rfl
@[simp] theorem State.setFr_script (s : State) (w : FWord) : (s.setFr w).script = s.script := rfl
@[simp] theorem State.setFr_reqs (s : State) (w : FWord) : (s.setFr w).reqs = s.reqs := rfl
@[simp] theorem State.setFr_cmds (s : State) (w : FWord) : (s.setFr w).cmds = s.cmds := rfl
@[simp] theorem State.setFr_draws (s : State) (w : FWord) : (s.setFr w).draws = s.draws := rfl

/-! ## State.setFrVal -/

@[simp] theorem State.setFrVal_ee (s : State) (v : FVal) : (s.setFrVal v).ee = s.ee := rfl
@[simp] theorem State.setFrVal_fb (s : State) (v : FVal) : (s.setFrVal v).fb = s.fb := rfl
@[simp] theorem State.setFrVal_tf (s : State) (v : FVal) : (s.setFrVal v).tf = s.tf := rfl
@[simp] theorem State.setFrVal_cal (s : State) (v : FVal) : (s.setFrVal v).cal = s.cal := rfl
@[simp] theorem State.setFrVal_ta (s : State) (v : FVal) : (s.setFrVal v).ta = s.ta := rfl
@[simp] theorem State.setFrVal_xr (s : State) (v : FVal) : (s.setFrVal v).xr = s.xr := rfl
@[simp] theorem State.setFrVal_fr (s : State) (v : FVal) : (s.setFrVal v).fr = v.toWord (s.free 0) := rfl
@[simp] theorem State.setFrVal_emis (s : State) (v : FVal) : (s.setFrVal v).emis = s.emis := rfl
@[simp] theorem State.setFrVal_status (s : State) (v : FVal) : (s.setFrVal v).status = s.status := rfl
@[simp] theorem State.setFrVal_inited (s : State) (v : FVal) : (s.setFrVal v).inited = s.inited := rfl
@[simp] theorem State.setFrVal_eeState (s : State) (v : FVal) : (s.setFrVal v).eeState = s.eeState := rfl
@[simp] theorem State.setFrVal_calValid (s : State) (v : FVal) : (s.setFrVal v).calValid = s.calValid := rfl
@[simp] theorem State.setFrVal_fbValid (s : State) (v : FVal) : (s.setFrVal v).fbValid = s.fbValid := rfl
@[simp] theorem State.setFrVal_tfValid (s : State) (v : FVal) : (s.setFrVal v).tfValid = s.tfValid := rfl
@[simp] theorem State.setFrVal_taValid (s : State) (v : FVal) : (s.setFrVal v).taValid = s.taValid := rfl
@[simp] theorem State.setFrVal_faulted (s : State) (v : FVal) : (s.setFrVal v).faulted = s.faulted := rfl
@[simp] theorem State.setFrVal_eccst (s : State) (v : FVal) : (s.setFrVal v).eccst = s.eccst := rfl
@[simp] theorem State.setFrVal_wEcc (s : State) (v : FVal) : (s.setFrVal v).wEcc = s.wEcc := rfl
@[simp] theorem State.setFrVal_wCfg (s : State) (v : FVal) : (s.setFrVal v).wCfg = s.wCfg := rfl
@[simp] theorem State.setFrVal_fs (s : State) (v : FVal) : (s.setFrVal v).fs = s.fs := rfl
@[simp] theorem State.setFrVal_np (s : State) (v : FVal) : (s.setFrVal v).np = s.np := rfl
@[simp] theorem State.setFrVal_att (s : State) (v : FVal) : (s.setFrVal v).att = s.att := rfl
@[simp] theorem State.setFrVal_win (s : State) (v : FVal) : (s.setFrVal v).win = s.win := rfl
@[simp] theorem State.setFrVal_subp (s : State) (v : FVal) : (s.setFrVal v).subp = s.subp := rfl
@[simp] theorem State.setFrVal_stw (s : State) (v : FVal) : (s.setFrVal v).stw = s.stw := rfl
@[simp] theorem State.setFrVal_cfg (s : State) (v : FVal) : (s.setFrVal v).cfg = s.cfg := rfl
@[simp] theorem State.setFrVal_script (s : State) (v : FVal) : (s.setFrVal v).script = s.script := rfl
@[simp] theorem State.setFrVal_reqs (s : State) (v : FVal) : (s.setFrVal v).reqs = s.reqs := rfl
@[simp] theorem State.setFrVal_cmds (s : State) (v : FVal) : (s.setFrVal v).cmds = s.cmds := rfl
@[simp] theorem State.setFrVal_draws (s : State) (v : FVal) : (s.setFrVal v).draws = s.draws + 1 := rfl

/-! ## State.asked -/

@[simp] theorem State.asked_ee (s : State) (q : BusReq) : (s.asked q).ee = s.ee := rfl
@[simp] theorem State.asked_fb (s : State) (q : BusReq) : (s.asked q).fb = s.fb := rfl
@[simp] theorem State.asked_tf (s : State) (q : BusReq) : (s.asked q).tf = s.tf := rfl
@[simp] theorem State.asked_cal (s : State) (q : BusReq) : (s.asked q).cal = s.cal := rfl
@[simp] theorem State.asked_ta (s : State) (q : BusReq) : (s.asked q).ta = s.ta := rfl
@[simp] theorem State.asked_xr (s : State) (q : BusReq) : (s.asked q).xr = s.xr := rfl
@[simp] theorem State.asked_fr (s : State) (q : BusReq) : (s.asked q).fr = s.fr := rfl
@[simp] theorem State.asked_emis (s : State) (q : BusReq) : (s.asked q).emis = s.emis := rfl
@[simp] theorem State.asked_status (s : State) (q : BusReq) : (s.asked q).status = s.status := rfl
@[simp] theorem State.asked_inited (s : State) (q : BusReq) : (s.asked q).inited = s.inited := rfl
@[simp] theorem State.asked_eeState (s : State) (q : BusReq) : (s.asked q).eeState = s.eeState := rfl
@[simp] theorem State.asked_calValid (s : State) (q : BusReq) : (s.asked q).calValid = s.calValid := rfl
@[simp] theorem State.asked_fbValid (s : State) (q : BusReq) : (s.asked q).fbValid = s.fbValid := rfl
@[simp] theorem State.asked_tfValid (s : State) (q : BusReq) : (s.asked q).tfValid = s.tfValid := rfl
@[simp] theorem State.asked_taValid (s : State) (q : BusReq) : (s.asked q).taValid = s.taValid := rfl
@[simp] theorem State.asked_faulted (s : State) (q : BusReq) : (s.asked q).faulted = s.faulted := rfl
@[simp] theorem State.asked_eccst (s : State) (q : BusReq) : (s.asked q).eccst = s.eccst := rfl
@[simp] theorem State.asked_wEcc (s : State) (q : BusReq) : (s.asked q).wEcc = s.wEcc := rfl
@[simp] theorem State.asked_wCfg (s : State) (q : BusReq) : (s.asked q).wCfg = s.wCfg := rfl
@[simp] theorem State.asked_fs (s : State) (q : BusReq) : (s.asked q).fs = s.fs := rfl
@[simp] theorem State.asked_np (s : State) (q : BusReq) : (s.asked q).np = s.np := rfl
@[simp] theorem State.asked_att (s : State) (q : BusReq) : (s.asked q).att = s.att := rfl
@[simp] theorem State.asked_win (s : State) (q : BusReq) : (s.asked q).win = s.win := rfl
@[simp] theorem State.asked_subp (s : State) (q : BusReq) : (s.asked q).subp = s.subp := rfl
@[simp] theorem State.asked_stw (s : State) (q : BusReq) : (s.asked q).stw = s.stw := rfl
@[simp] theorem State.asked_cfg (s : State) (q : BusReq) : (s.asked q).cfg = s.cfg := rfl
@[simp] theorem State.asked_script (s : State) (q : BusReq) : (s.asked q).script = s.script.tail := rfl
@[simp] theorem State.asked_reqs (s : State) (q : BusReq) : (s.asked q).reqs = q :: s.reqs := rfl
@[simp] theorem State.asked_cmds (s : State) (q : BusReq) : (s.asked q).cmds = s.cmds := rfl
@[simp] theorem State.asked_draws (s : State) (q : BusReq) : (s.asked q).draws = s.draws := rfl

/-! ## State.taken -/

@[simp] theorem State.taken_ee (s : State) : s.taken.ee = s.ee := rfl
@[simp] theorem State.taken_fb (s : State) : s.taken.fb = s.fb := rfl
@[simp] theorem State.taken_tf (s : State) : s.taken.tf = s.tf := rfl
@[simp] theorem State.taken_cal (s : State) : s.taken.cal = s.cal := rfl
@[simp] theorem State.taken_ta (s : State) : s.taken.ta = s.ta := rfl
@[simp] theorem State.taken_xr (s : State) : s.taken.xr = s.xr := rfl
@[simp] theorem State.taken_fr (s : State) : s.taken.fr = s.fr := rfl
@[simp] theorem State.taken_emis (s : State) : s.taken.emis = s.emis := rfl
@[simp] theorem State.taken_status (s : State) : s.taken.status = s.status := rfl
@[simp] theorem State.taken_inited (s : State) : s.taken.inited = s.inited := rfl
@[simp] theorem State.taken_eeState (s : State) : s.taken.eeState = s.eeState := rfl
@[simp] theorem State.taken_calValid (s : State) : s.taken.calValid = s.calValid := rfl
@[simp] theorem State.taken_fbValid (s : State) : s.taken.fbValid = s.fbValid := rfl
@[simp] theorem State.taken_tfValid (s : State) : s.taken.tfValid = s.tfValid := rfl
@[simp] theorem State.taken_taValid (s : State) : s.taken.taValid = s.taValid := rfl
@[simp] theorem State.taken_faulted (s : State) : s.taken.faulted = s.faulted := rfl
@[simp] theorem State.taken_eccst (s : State) : s.taken.eccst = s.eccst := rfl
@[simp] theorem State.taken_wEcc (s : State) : s.taken.wEcc = s.wEcc := rfl
@[simp] theorem State.taken_wCfg (s : State) : s.taken.wCfg = s.wCfg := rfl
@[simp] theorem State.taken_fs (s : State) : s.taken.fs = s.fs := rfl
@[simp] theorem State.taken_np (s : State) : s.taken.np = s.np := rfl
@[simp] theorem State.taken_att (s : State) : s.taken.att = s.att := rfl
@[simp] theorem State.taken_win (s : State) : s.taken.win = s.win := rfl
@[simp] theorem State.taken_subp (s : State) : s.taken.subp = s.subp := rfl
@[simp] theorem State.taken_stw (s : State) : s.taken.stw = s.stw := rfl
@[simp] theorem State.taken_cfg (s : State) : s.taken.cfg = s.cfg := rfl
@[simp] theorem State.taken_script (s : State) : s.taken.script = s.script := rfl
@[simp] theorem State.taken_reqs (s : State) : s.taken.reqs = s.reqs := rfl
@[simp] theorem State.taken_cmds (s : State) : s.taken.cmds = s.cmds.tail := rfl
@[simp] theorem State.taken_draws (s : State) : s.taken.draws = s.draws := rfl

/-! ## State.withTransaction -/

@[simp] theorem State.withTransaction_ee (s : State) (ws : List Word32) : (s.withTransaction ws).ee = s.ee := rfl
@[simp] theorem State.withTransaction_fb (s : State) (ws : List Word32) : (s.withTransaction ws).fb = s.fb := rfl
@[simp] theorem State.withTransaction_tf (s : State) (ws : List Word32) : (s.withTransaction ws).tf = s.tf := rfl
@[simp] theorem State.withTransaction_cal (s : State) (ws : List Word32) : (s.withTransaction ws).cal = s.cal := rfl
@[simp] theorem State.withTransaction_ta (s : State) (ws : List Word32) : (s.withTransaction ws).ta = s.ta := rfl
@[simp] theorem State.withTransaction_xr (s : State) (ws : List Word32) : (s.withTransaction ws).xr = s.xr := rfl
@[simp] theorem State.withTransaction_fr (s : State) (ws : List Word32) : (s.withTransaction ws).fr = s.fr := rfl
@[simp] theorem State.withTransaction_emis (s : State) (ws : List Word32) : (s.withTransaction ws).emis = s.emis := rfl
@[simp] theorem State.withTransaction_status (s : State) (ws : List Word32) : (s.withTransaction ws).status = s.status := rfl
@[simp] theorem State.withTransaction_inited (s : State) (ws : List Word32) : (s.withTransaction ws).inited = s.inited := rfl
@[simp] theorem State.withTransaction_eeState (s : State) (ws : List Word32) : (s.withTransaction ws).eeState = s.eeState := rfl
@[simp] theorem State.withTransaction_calValid (s : State) (ws : List Word32) : (s.withTransaction ws).calValid = s.calValid := rfl
@[simp] theorem State.withTransaction_fbValid (s : State) (ws : List Word32) : (s.withTransaction ws).fbValid = s.fbValid := rfl
@[simp] theorem State.withTransaction_tfValid (s : State) (ws : List Word32) : (s.withTransaction ws).tfValid = s.tfValid := rfl
@[simp] theorem State.withTransaction_taValid (s : State) (ws : List Word32) : (s.withTransaction ws).taValid = s.taValid := rfl
@[simp] theorem State.withTransaction_faulted (s : State) (ws : List Word32) : (s.withTransaction ws).faulted = s.faulted := rfl
@[simp] theorem State.withTransaction_eccst (s : State) (ws : List Word32) : (s.withTransaction ws).eccst = s.eccst := rfl
@[simp] theorem State.withTransaction_wEcc (s : State) (ws : List Word32) : (s.withTransaction ws).wEcc = s.wEcc := rfl
@[simp] theorem State.withTransaction_wCfg (s : State) (ws : List Word32) : (s.withTransaction ws).wCfg = s.wCfg := rfl
@[simp] theorem State.withTransaction_fs (s : State) (ws : List Word32) : (s.withTransaction ws).fs = s.fs := rfl
@[simp] theorem State.withTransaction_np (s : State) (ws : List Word32) : (s.withTransaction ws).np = s.np := rfl
@[simp] theorem State.withTransaction_att (s : State) (ws : List Word32) : (s.withTransaction ws).att = s.att := rfl
@[simp] theorem State.withTransaction_win (s : State) (ws : List Word32) : (s.withTransaction ws).win = s.win := rfl
@[simp] theorem State.withTransaction_subp (s : State) (ws : List Word32) : (s.withTransaction ws).subp = s.subp := rfl
@[simp] theorem State.withTransaction_stw (s : State) (ws : List Word32) : (s.withTransaction ws).stw = s.stw := rfl
@[simp] theorem State.withTransaction_cfg (s : State) (ws : List Word32) : (s.withTransaction ws).cfg = s.cfg := rfl
@[simp] theorem State.withTransaction_script (s : State) (ws : List Word32) : (s.withTransaction ws).script = s.script := rfl
@[simp] theorem State.withTransaction_reqs (s : State) (ws : List Word32) : (s.withTransaction ws).reqs = s.reqs := rfl
@[simp] theorem State.withTransaction_cmds (s : State) (ws : List Word32) : (s.withTransaction ws).cmds = .transaction ws :: s.cmds := rfl
@[simp] theorem State.withTransaction_draws (s : State) (ws : List Word32) : (s.withTransaction ws).draws = s.draws := rfl

/-! ## State.setAmbient -/

@[simp] theorem State.setAmbient_ee (s : State) : s.setAmbient.ee = s.ee := rfl
@[simp] theorem State.setAmbient_fb (s : State) : s.setAmbient.fb = s.fb := rfl
@[simp] theorem State.setAmbient_tf (s : State) : s.setAmbient.tf = s.tf := rfl
@[simp] theorem State.setAmbient_cal (s : State) : s.setAmbient.cal = s.cal := rfl
@[simp] theorem State.setAmbient_ta (s : State) : s.setAmbient.ta = (frameTa s.cfg s.cal s.fb).toWord (s.free 0) := rfl
@[simp] theorem State.setAmbient_xr (s : State) : s.setAmbient.xr = s.xr := rfl
@[simp] theorem State.setAmbient_fr (s : State) : s.setAmbient.fr = s.fr := rfl
@[simp] theorem State.setAmbient_emis (s : State) : s.setAmbient.emis = s.emis := rfl
@[simp] theorem State.setAmbient_status (s : State) : s.setAmbient.status = s.status := rfl
@[simp] theorem State.setAmbient_inited (s : State) : s.setAmbient.inited = s.inited := rfl
@[simp] theorem State.setAmbient_eeState (s : State) : s.setAmbient.eeState = s.eeState := rfl
@[simp] theorem State.setAmbient_calValid (s : State) : s.setAmbient.calValid = s.calValid := rfl
@[simp] theorem State.setAmbient_fbValid (s : State) : s.setAmbient.fbValid = s.fbValid := rfl
@[simp] theorem State.setAmbient_tfValid (s : State) : s.setAmbient.tfValid = s.tfValid := rfl
@[simp] theorem State.setAmbient_taValid (s : State) : s.setAmbient.taValid = true := rfl
@[simp] theorem State.setAmbient_faulted (s : State) : s.setAmbient.faulted = s.faulted := rfl
@[simp] theorem State.setAmbient_eccst (s : State) : s.setAmbient.eccst = s.eccst := rfl
@[simp] theorem State.setAmbient_wEcc (s : State) : s.setAmbient.wEcc = s.wEcc := rfl
@[simp] theorem State.setAmbient_wCfg (s : State) : s.setAmbient.wCfg = s.wCfg := rfl
@[simp] theorem State.setAmbient_fs (s : State) : s.setAmbient.fs = s.fs := rfl
@[simp] theorem State.setAmbient_np (s : State) : s.setAmbient.np = s.np := rfl
@[simp] theorem State.setAmbient_att (s : State) : s.setAmbient.att = s.att := rfl
@[simp] theorem State.setAmbient_win (s : State) : s.setAmbient.win = s.win := rfl
@[simp] theorem State.setAmbient_subp (s : State) : s.setAmbient.subp = s.subp := rfl
@[simp] theorem State.setAmbient_stw (s : State) : s.setAmbient.stw = s.stw := rfl
@[simp] theorem State.setAmbient_cfg (s : State) : s.setAmbient.cfg = s.cfg := rfl
@[simp] theorem State.setAmbient_script (s : State) : s.setAmbient.script = s.script := rfl
@[simp] theorem State.setAmbient_reqs (s : State) : s.setAmbient.reqs = s.reqs := rfl
@[simp] theorem State.setAmbient_cmds (s : State) : s.setAmbient.cmds = s.cmds := rfl
@[simp] theorem State.setAmbient_draws (s : State) : s.setAmbient.draws = s.draws + 1 := rfl

/-! ## State.ambient -/

@[simp] theorem State.ambient_ee (s : State) : s.ambient.ee = s.ee := rfl
@[simp] theorem State.ambient_fb (s : State) : s.ambient.fb = s.fb := rfl
@[simp] theorem State.ambient_tf (s : State) : s.ambient.tf = s.tf := rfl
@[simp] theorem State.ambient_cal (s : State) : s.ambient.cal = s.cal := rfl
@[simp] theorem State.ambient_ta (s : State) : s.ambient.ta = (frameTa s.cfg s.cal s.fb).toWord (s.free 0) := rfl
@[simp] theorem State.ambient_xr (s : State) : s.ambient.xr = s.xr := rfl
@[simp] theorem State.ambient_fr (s : State) : s.ambient.fr = s.fr := rfl
@[simp] theorem State.ambient_emis (s : State) : s.ambient.emis = s.emis := rfl
@[simp] theorem State.ambient_status (s : State) : s.ambient.status = .ok := rfl
@[simp] theorem State.ambient_inited (s : State) : s.ambient.inited = s.inited := rfl
@[simp] theorem State.ambient_eeState (s : State) : s.ambient.eeState = s.eeState := rfl
@[simp] theorem State.ambient_calValid (s : State) : s.ambient.calValid = s.calValid := rfl
@[simp] theorem State.ambient_fbValid (s : State) : s.ambient.fbValid = s.fbValid := rfl
@[simp] theorem State.ambient_tfValid (s : State) : s.ambient.tfValid = s.tfValid := rfl
@[simp] theorem State.ambient_taValid (s : State) : s.ambient.taValid = true := rfl
@[simp] theorem State.ambient_faulted (s : State) : s.ambient.faulted = s.faulted := rfl
@[simp] theorem State.ambient_eccst (s : State) : s.ambient.eccst = s.eccst := rfl
@[simp] theorem State.ambient_wEcc (s : State) : s.ambient.wEcc = s.wEcc := rfl
@[simp] theorem State.ambient_wCfg (s : State) : s.ambient.wCfg = s.wCfg := rfl
@[simp] theorem State.ambient_fs (s : State) : s.ambient.fs = s.fs := rfl
@[simp] theorem State.ambient_np (s : State) : s.ambient.np = s.np := rfl
@[simp] theorem State.ambient_att (s : State) : s.ambient.att = s.att := rfl
@[simp] theorem State.ambient_win (s : State) : s.ambient.win = s.win := rfl
@[simp] theorem State.ambient_subp (s : State) : s.ambient.subp = s.subp := rfl
@[simp] theorem State.ambient_stw (s : State) : s.ambient.stw = s.stw := rfl
@[simp] theorem State.ambient_cfg (s : State) : s.ambient.cfg = s.cfg := rfl
@[simp] theorem State.ambient_script (s : State) : s.ambient.script = s.script := rfl
@[simp] theorem State.ambient_reqs (s : State) : s.ambient.reqs = s.reqs := rfl
@[simp] theorem State.ambient_cmds (s : State) : s.ambient.cmds = s.cmds := rfl
@[simp] theorem State.ambient_draws (s : State) : s.ambient.draws = s.draws + 1 := rfl

/-! ## State.scan -/

@[simp] theorem State.scan_ee (s : State) : s.scan.ee = scanImage s.cfg s.ee := by rw [State.scan]
@[simp] theorem State.scan_fb (s : State) : s.scan.fb = s.fb := by rw [State.scan]
@[simp] theorem State.scan_tf (s : State) : s.scan.tf = s.tf := by rw [State.scan]
@[simp] theorem State.scan_cal (s : State) : s.scan.cal = s.cal := by rw [State.scan]
@[simp] theorem State.scan_ta (s : State) : s.scan.ta = s.ta := by rw [State.scan]
@[simp] theorem State.scan_xr (s : State) : s.scan.xr = s.xr := by rw [State.scan]
@[simp] theorem State.scan_fr (s : State) : s.scan.fr = s.fr := by rw [State.scan]
@[simp] theorem State.scan_emis (s : State) : s.scan.emis = s.emis := by rw [State.scan]
@[simp] theorem State.scan_status (s : State) : s.scan.status = (scanWorst s.cfg s.ee).status := by rw [State.scan]
@[simp] theorem State.scan_inited (s : State) : s.scan.inited = s.inited := by rw [State.scan]
@[simp] theorem State.scan_eeState (s : State) : s.scan.eeState = .decoded := by rw [State.scan]
@[simp] theorem State.scan_calValid (s : State) : s.scan.calValid = s.calValid := by rw [State.scan]
@[simp] theorem State.scan_fbValid (s : State) : s.scan.fbValid = s.fbValid := by rw [State.scan]
@[simp] theorem State.scan_tfValid (s : State) : s.scan.tfValid = s.tfValid := by rw [State.scan]
@[simp] theorem State.scan_taValid (s : State) : s.scan.taValid = s.taValid := by rw [State.scan]
@[simp] theorem State.scan_faulted (s : State) : s.scan.faulted = s.faulted := by rw [State.scan]
@[simp] theorem State.scan_eccst (s : State) : s.scan.eccst = scanWorst s.cfg s.ee := by rw [State.scan]
@[simp] theorem State.scan_wEcc (s : State) : s.scan.wEcc = s.wEcc := by rw [State.scan]
@[simp] theorem State.scan_wCfg (s : State) : s.scan.wCfg = s.wCfg := by rw [State.scan]
@[simp] theorem State.scan_fs (s : State) : s.scan.fs = s.fs := by rw [State.scan]
@[simp] theorem State.scan_np (s : State) : s.scan.np = s.np := by rw [State.scan]
@[simp] theorem State.scan_att (s : State) : s.scan.att = s.att := by rw [State.scan]
@[simp] theorem State.scan_win (s : State) : s.scan.win = s.win := by rw [State.scan]
@[simp] theorem State.scan_subp (s : State) : s.scan.subp = s.subp := by rw [State.scan]
@[simp] theorem State.scan_stw (s : State) : s.scan.stw = s.stw := by rw [State.scan]
@[simp] theorem State.scan_cfg (s : State) : s.scan.cfg = s.cfg := by rw [State.scan]
@[simp] theorem State.scan_script (s : State) : s.scan.script = s.script := by rw [State.scan]
@[simp] theorem State.scan_reqs (s : State) : s.scan.reqs = s.reqs := by rw [State.scan]
@[simp] theorem State.scan_cmds (s : State) : s.scan.cmds = s.cmds := by rw [State.scan]
@[simp] theorem State.scan_draws (s : State) : s.scan.draws = s.draws := by rw [State.scan]

/-! ## State.commitCal -/

@[simp] theorem State.commitCal_ee (s : State) : s.commitCal.ee = s.ee := rfl
@[simp] theorem State.commitCal_fb (s : State) : s.commitCal.fb = s.fb := rfl
@[simp] theorem State.commitCal_tf (s : State) : s.commitCal.tf = s.tf := rfl
@[simp] theorem State.commitCal_cal (s : State) : s.commitCal.cal = extractAll s.cfg s.ee s.draws := rfl
@[simp] theorem State.commitCal_ta (s : State) : s.commitCal.ta = s.ta := rfl
@[simp] theorem State.commitCal_xr (s : State) : s.commitCal.xr = s.xr := rfl
@[simp] theorem State.commitCal_fr (s : State) : s.commitCal.fr = s.fr := rfl
@[simp] theorem State.commitCal_emis (s : State) : s.commitCal.emis = s.emis := rfl
@[simp] theorem State.commitCal_status (s : State) : s.commitCal.status = .ok := rfl
@[simp] theorem State.commitCal_inited (s : State) : s.commitCal.inited = s.inited := rfl
@[simp] theorem State.commitCal_eeState (s : State) : s.commitCal.eeState = s.eeState := rfl
@[simp] theorem State.commitCal_calValid (s : State) : s.commitCal.calValid = true := rfl
@[simp] theorem State.commitCal_fbValid (s : State) : s.commitCal.fbValid = s.fbValid := rfl
@[simp] theorem State.commitCal_tfValid (s : State) : s.commitCal.tfValid = s.tfValid := rfl
@[simp] theorem State.commitCal_taValid (s : State) : s.commitCal.taValid = s.taValid := rfl
@[simp] theorem State.commitCal_faulted (s : State) : s.commitCal.faulted = s.faulted := rfl
@[simp] theorem State.commitCal_eccst (s : State) : s.commitCal.eccst = s.eccst := rfl
@[simp] theorem State.commitCal_wEcc (s : State) : s.commitCal.wEcc = s.wEcc := rfl
@[simp] theorem State.commitCal_wCfg (s : State) : s.commitCal.wCfg = s.wCfg := rfl
@[simp] theorem State.commitCal_fs (s : State) : s.commitCal.fs = s.fs := rfl
@[simp] theorem State.commitCal_np (s : State) : s.commitCal.np = s.np := rfl
@[simp] theorem State.commitCal_att (s : State) : s.commitCal.att = s.att := rfl
@[simp] theorem State.commitCal_win (s : State) : s.commitCal.win = s.win := rfl
@[simp] theorem State.commitCal_subp (s : State) : s.commitCal.subp = s.subp := rfl
@[simp] theorem State.commitCal_stw (s : State) : s.commitCal.stw = s.stw := rfl
@[simp] theorem State.commitCal_cfg (s : State) : s.commitCal.cfg = s.cfg := rfl
@[simp] theorem State.commitCal_script (s : State) : s.commitCal.script = s.script := rfl
@[simp] theorem State.commitCal_reqs (s : State) : s.commitCal.reqs = s.reqs := rfl
@[simp] theorem State.commitCal_cmds (s : State) : s.commitCal.cmds = s.cmds := rfl
@[simp] theorem State.commitCal_draws (s : State) : s.commitCal.draws = s.draws + calxDraws := rfl

/-! ## State.frStart -/

@[simp] theorem State.frStart_ee (s : State) : s.frStart.ee = s.ee := rfl
@[simp] theorem State.frStart_fb (s : State) : s.frStart.fb = s.fb := rfl
@[simp] theorem State.frStart_tf (s : State) : s.frStart.tf = s.tf := rfl
@[simp] theorem State.frStart_cal (s : State) : s.frStart.cal = s.cal := rfl
@[simp] theorem State.frStart_ta (s : State) : s.frStart.ta = s.ta := rfl
@[simp] theorem State.frStart_xr (s : State) : s.frStart.xr = s.xr := rfl
@[simp] theorem State.frStart_fr (s : State) : s.frStart.fr = s.fr := rfl
@[simp] theorem State.frStart_emis (s : State) : s.frStart.emis = s.emis := rfl
@[simp] theorem State.frStart_status (s : State) : s.frStart.status = s.status := rfl
@[simp] theorem State.frStart_inited (s : State) : s.frStart.inited = s.inited := rfl
@[simp] theorem State.frStart_eeState (s : State) : s.frStart.eeState = s.eeState := rfl
@[simp] theorem State.frStart_calValid (s : State) : s.frStart.calValid = s.calValid := rfl
@[simp] theorem State.frStart_fbValid (s : State) : s.frStart.fbValid = false := rfl
@[simp] theorem State.frStart_tfValid (s : State) : s.frStart.tfValid = s.tfValid := rfl
@[simp] theorem State.frStart_taValid (s : State) : s.frStart.taValid = s.taValid := rfl
@[simp] theorem State.frStart_faulted (s : State) : s.frStart.faulted = s.faulted := rfl
@[simp] theorem State.frStart_eccst (s : State) : s.frStart.eccst = s.eccst := rfl
@[simp] theorem State.frStart_wEcc (s : State) : s.frStart.wEcc = s.wEcc := rfl
@[simp] theorem State.frStart_wCfg (s : State) : s.frStart.wCfg = s.wCfg := rfl
@[simp] theorem State.frStart_fs (s : State) : s.frStart.fs = .pollStatus := rfl
@[simp] theorem State.frStart_np (s : State) : s.frStart.np = 0 := rfl
@[simp] theorem State.frStart_att (s : State) : s.frStart.att = 0 := rfl
@[simp] theorem State.frStart_win (s : State) : s.frStart.win = 0 := rfl
@[simp] theorem State.frStart_subp (s : State) : s.frStart.subp = s.subp := rfl
@[simp] theorem State.frStart_stw (s : State) : s.frStart.stw = s.stw := rfl
@[simp] theorem State.frStart_cfg (s : State) : s.frStart.cfg = s.cfg := rfl
@[simp] theorem State.frStart_script (s : State) : s.frStart.script = s.script := rfl
@[simp] theorem State.frStart_reqs (s : State) : s.frStart.reqs = s.reqs := rfl
@[simp] theorem State.frStart_cmds (s : State) : s.frStart.cmds = s.cmds := rfl
@[simp] theorem State.frStart_draws (s : State) : s.frStart.draws = s.draws := rfl

/-! ## State.windowRead -/

@[simp] theorem State.windowRead_ee (s : State) (ws : List Word) : (s.windowRead ws).ee = s.ee := rfl
@[simp] theorem State.windowRead_fb (s : State) (ws : List Word) : (s.windowRead ws).fb = s.fb.writeList (Config.winWords * s.win) ws := rfl
@[simp] theorem State.windowRead_tf (s : State) (ws : List Word) : (s.windowRead ws).tf = s.tf := rfl
@[simp] theorem State.windowRead_cal (s : State) (ws : List Word) : (s.windowRead ws).cal = s.cal := rfl
@[simp] theorem State.windowRead_ta (s : State) (ws : List Word) : (s.windowRead ws).ta = s.ta := rfl
@[simp] theorem State.windowRead_xr (s : State) (ws : List Word) : (s.windowRead ws).xr = s.xr := rfl
@[simp] theorem State.windowRead_fr (s : State) (ws : List Word) : (s.windowRead ws).fr = s.fr := rfl
@[simp] theorem State.windowRead_emis (s : State) (ws : List Word) : (s.windowRead ws).emis = s.emis := rfl
@[simp] theorem State.windowRead_status (s : State) (ws : List Word) : (s.windowRead ws).status = s.status := rfl
@[simp] theorem State.windowRead_inited (s : State) (ws : List Word) : (s.windowRead ws).inited = s.inited := rfl
@[simp] theorem State.windowRead_eeState (s : State) (ws : List Word) : (s.windowRead ws).eeState = s.eeState := rfl
@[simp] theorem State.windowRead_calValid (s : State) (ws : List Word) : (s.windowRead ws).calValid = s.calValid := rfl
@[simp] theorem State.windowRead_fbValid (s : State) (ws : List Word) : (s.windowRead ws).fbValid = s.fbValid := rfl
@[simp] theorem State.windowRead_tfValid (s : State) (ws : List Word) : (s.windowRead ws).tfValid = s.tfValid := rfl
@[simp] theorem State.windowRead_taValid (s : State) (ws : List Word) : (s.windowRead ws).taValid = s.taValid := rfl
@[simp] theorem State.windowRead_faulted (s : State) (ws : List Word) : (s.windowRead ws).faulted = s.faulted := rfl
@[simp] theorem State.windowRead_eccst (s : State) (ws : List Word) : (s.windowRead ws).eccst = s.eccst := rfl
@[simp] theorem State.windowRead_wEcc (s : State) (ws : List Word) : (s.windowRead ws).wEcc = s.wEcc := rfl
@[simp] theorem State.windowRead_wCfg (s : State) (ws : List Word) : (s.windowRead ws).wCfg = s.wCfg := rfl
@[simp] theorem State.windowRead_fs (s : State) (ws : List Word) : (s.windowRead ws).fs = s.fs := rfl
@[simp] theorem State.windowRead_np (s : State) (ws : List Word) : (s.windowRead ws).np = s.np := rfl
@[simp] theorem State.windowRead_att (s : State) (ws : List Word) : (s.windowRead ws).att = s.att := rfl
@[simp] theorem State.windowRead_win (s : State) (ws : List Word) : (s.windowRead ws).win = s.win + 1 := rfl
@[simp] theorem State.windowRead_subp (s : State) (ws : List Word) : (s.windowRead ws).subp = s.subp := rfl
@[simp] theorem State.windowRead_stw (s : State) (ws : List Word) : (s.windowRead ws).stw = s.stw := rfl
@[simp] theorem State.windowRead_cfg (s : State) (ws : List Word) : (s.windowRead ws).cfg = s.cfg := rfl
@[simp] theorem State.windowRead_script (s : State) (ws : List Word) : (s.windowRead ws).script = s.script := rfl
@[simp] theorem State.windowRead_reqs (s : State) (ws : List Word) : (s.windowRead ws).reqs = s.reqs := rfl
@[simp] theorem State.windowRead_cmds (s : State) (ws : List Word) : (s.windowRead ws).cmds = s.cmds := rfl
@[simp] theorem State.windowRead_draws (s : State) (ws : List Word) : (s.windowRead ws).draws = s.draws := rfl

/-! ## State.tailRead -/

@[simp] theorem State.tailRead_ee (s : State) (ws : List Word) : (s.tailRead ws).ee = s.ee := rfl
@[simp] theorem State.tailRead_fb (s : State) (ws : List Word) : (s.tailRead ws).fb = s.fb.writeList Config.npix ws := rfl
@[simp] theorem State.tailRead_tf (s : State) (ws : List Word) : (s.tailRead ws).tf = s.tf := rfl
@[simp] theorem State.tailRead_cal (s : State) (ws : List Word) : (s.tailRead ws).cal = s.cal := rfl
@[simp] theorem State.tailRead_ta (s : State) (ws : List Word) : (s.tailRead ws).ta = s.ta := rfl
@[simp] theorem State.tailRead_xr (s : State) (ws : List Word) : (s.tailRead ws).xr = s.xr := rfl
@[simp] theorem State.tailRead_fr (s : State) (ws : List Word) : (s.tailRead ws).fr = s.fr := rfl
@[simp] theorem State.tailRead_emis (s : State) (ws : List Word) : (s.tailRead ws).emis = s.emis := rfl
@[simp] theorem State.tailRead_status (s : State) (ws : List Word) : (s.tailRead ws).status = s.status := rfl
@[simp] theorem State.tailRead_inited (s : State) (ws : List Word) : (s.tailRead ws).inited = s.inited := rfl
@[simp] theorem State.tailRead_eeState (s : State) (ws : List Word) : (s.tailRead ws).eeState = s.eeState := rfl
@[simp] theorem State.tailRead_calValid (s : State) (ws : List Word) : (s.tailRead ws).calValid = s.calValid := rfl
@[simp] theorem State.tailRead_fbValid (s : State) (ws : List Word) : (s.tailRead ws).fbValid = s.fbValid := rfl
@[simp] theorem State.tailRead_tfValid (s : State) (ws : List Word) : (s.tailRead ws).tfValid = s.tfValid := rfl
@[simp] theorem State.tailRead_taValid (s : State) (ws : List Word) : (s.tailRead ws).taValid = s.taValid := rfl
@[simp] theorem State.tailRead_faulted (s : State) (ws : List Word) : (s.tailRead ws).faulted = s.faulted := rfl
@[simp] theorem State.tailRead_eccst (s : State) (ws : List Word) : (s.tailRead ws).eccst = s.eccst := rfl
@[simp] theorem State.tailRead_wEcc (s : State) (ws : List Word) : (s.tailRead ws).wEcc = s.wEcc := rfl
@[simp] theorem State.tailRead_wCfg (s : State) (ws : List Word) : (s.tailRead ws).wCfg = s.wCfg := rfl
@[simp] theorem State.tailRead_fs (s : State) (ws : List Word) : (s.tailRead ws).fs = .repoll := rfl
@[simp] theorem State.tailRead_np (s : State) (ws : List Word) : (s.tailRead ws).np = s.np := rfl
@[simp] theorem State.tailRead_att (s : State) (ws : List Word) : (s.tailRead ws).att = s.att := rfl
@[simp] theorem State.tailRead_win (s : State) (ws : List Word) : (s.tailRead ws).win = s.win := rfl
@[simp] theorem State.tailRead_subp (s : State) (ws : List Word) : (s.tailRead ws).subp = s.subp := rfl
@[simp] theorem State.tailRead_stw (s : State) (ws : List Word) : (s.tailRead ws).stw = s.stw := rfl
@[simp] theorem State.tailRead_cfg (s : State) (ws : List Word) : (s.tailRead ws).cfg = s.cfg := rfl
@[simp] theorem State.tailRead_script (s : State) (ws : List Word) : (s.tailRead ws).script = s.script := rfl
@[simp] theorem State.tailRead_reqs (s : State) (ws : List Word) : (s.tailRead ws).reqs = s.reqs := rfl
@[simp] theorem State.tailRead_cmds (s : State) (ws : List Word) : (s.tailRead ws).cmds = s.cmds := rfl
@[simp] theorem State.tailRead_draws (s : State) (ws : List Word) : (s.tailRead ws).draws = s.draws := rfl

/-! ## State.ctrlRead -/

@[simp] theorem State.ctrlRead_ee (s : State) (w : Word) : (s.ctrlRead w).ee = s.ee := rfl
@[simp] theorem State.ctrlRead_fb (s : State) (w : Word) : (s.ctrlRead w).fb = (s.fb.write s.cfg.trailerBase w).write (s.cfg.trailerBase + 1) (if s.subp then 1 else 0) := rfl
@[simp] theorem State.ctrlRead_tf (s : State) (w : Word) : (s.ctrlRead w).tf = s.tf := rfl
@[simp] theorem State.ctrlRead_cal (s : State) (w : Word) : (s.ctrlRead w).cal = s.cal := rfl
@[simp] theorem State.ctrlRead_ta (s : State) (w : Word) : (s.ctrlRead w).ta = s.ta := rfl
@[simp] theorem State.ctrlRead_xr (s : State) (w : Word) : (s.ctrlRead w).xr = s.xr := rfl
@[simp] theorem State.ctrlRead_fr (s : State) (w : Word) : (s.ctrlRead w).fr = s.fr := rfl
@[simp] theorem State.ctrlRead_emis (s : State) (w : Word) : (s.ctrlRead w).emis = s.emis := rfl
@[simp] theorem State.ctrlRead_status (s : State) (w : Word) : (s.ctrlRead w).status = .ok := rfl
@[simp] theorem State.ctrlRead_inited (s : State) (w : Word) : (s.ctrlRead w).inited = s.inited := rfl
@[simp] theorem State.ctrlRead_eeState (s : State) (w : Word) : (s.ctrlRead w).eeState = s.eeState := rfl
@[simp] theorem State.ctrlRead_calValid (s : State) (w : Word) : (s.ctrlRead w).calValid = s.calValid := rfl
@[simp] theorem State.ctrlRead_fbValid (s : State) (w : Word) : (s.ctrlRead w).fbValid = true := rfl
@[simp] theorem State.ctrlRead_tfValid (s : State) (w : Word) : (s.ctrlRead w).tfValid = s.tfValid := rfl
@[simp] theorem State.ctrlRead_taValid (s : State) (w : Word) : (s.ctrlRead w).taValid = s.taValid := rfl
@[simp] theorem State.ctrlRead_faulted (s : State) (w : Word) : (s.ctrlRead w).faulted = s.faulted := rfl
@[simp] theorem State.ctrlRead_eccst (s : State) (w : Word) : (s.ctrlRead w).eccst = s.eccst := rfl
@[simp] theorem State.ctrlRead_wEcc (s : State) (w : Word) : (s.ctrlRead w).wEcc = s.wEcc := rfl
@[simp] theorem State.ctrlRead_wCfg (s : State) (w : Word) : (s.ctrlRead w).wCfg = s.wCfg := rfl
@[simp] theorem State.ctrlRead_fs (s : State) (w : Word) : (s.ctrlRead w).fs = .idle := rfl
@[simp] theorem State.ctrlRead_np (s : State) (w : Word) : (s.ctrlRead w).np = s.np := rfl
@[simp] theorem State.ctrlRead_att (s : State) (w : Word) : (s.ctrlRead w).att = s.att := rfl
@[simp] theorem State.ctrlRead_win (s : State) (w : Word) : (s.ctrlRead w).win = s.win := rfl
@[simp] theorem State.ctrlRead_subp (s : State) (w : Word) : (s.ctrlRead w).subp = s.subp := rfl
@[simp] theorem State.ctrlRead_stw (s : State) (w : Word) : (s.ctrlRead w).stw = s.stw := rfl
@[simp] theorem State.ctrlRead_cfg (s : State) (w : Word) : (s.ctrlRead w).cfg = s.cfg := rfl
@[simp] theorem State.ctrlRead_script (s : State) (w : Word) : (s.ctrlRead w).script = s.script := rfl
@[simp] theorem State.ctrlRead_reqs (s : State) (w : Word) : (s.ctrlRead w).reqs = s.reqs := rfl
@[simp] theorem State.ctrlRead_cmds (s : State) (w : Word) : (s.ctrlRead w).cmds = s.cmds := rfl
@[simp] theorem State.ctrlRead_draws (s : State) (w : Word) : (s.ctrlRead w).draws = s.draws := rfl

/-! ## State.warnCfg -/

@[simp] theorem State.warnCfg_ee (s : State) : s.warnCfg.ee = s.ee := rfl
@[simp] theorem State.warnCfg_fb (s : State) : s.warnCfg.fb = s.fb := rfl
@[simp] theorem State.warnCfg_tf (s : State) : s.warnCfg.tf = s.tf := rfl
@[simp] theorem State.warnCfg_cal (s : State) : s.warnCfg.cal = s.cal := rfl
@[simp] theorem State.warnCfg_ta (s : State) : s.warnCfg.ta = s.ta := rfl
@[simp] theorem State.warnCfg_xr (s : State) : s.warnCfg.xr = s.xr := rfl
@[simp] theorem State.warnCfg_fr (s : State) : s.warnCfg.fr = s.fr := rfl
@[simp] theorem State.warnCfg_emis (s : State) : s.warnCfg.emis = s.emis := rfl
@[simp] theorem State.warnCfg_status (s : State) : s.warnCfg.status = s.status := rfl
@[simp] theorem State.warnCfg_inited (s : State) : s.warnCfg.inited = s.inited := rfl
@[simp] theorem State.warnCfg_eeState (s : State) : s.warnCfg.eeState = s.eeState := rfl
@[simp] theorem State.warnCfg_calValid (s : State) : s.warnCfg.calValid = s.calValid := rfl
@[simp] theorem State.warnCfg_fbValid (s : State) : s.warnCfg.fbValid = s.fbValid := rfl
@[simp] theorem State.warnCfg_tfValid (s : State) : s.warnCfg.tfValid = s.tfValid := rfl
@[simp] theorem State.warnCfg_taValid (s : State) : s.warnCfg.taValid = s.taValid := rfl
@[simp] theorem State.warnCfg_faulted (s : State) : s.warnCfg.faulted = s.faulted := rfl
@[simp] theorem State.warnCfg_eccst (s : State) : s.warnCfg.eccst = s.eccst := rfl
@[simp] theorem State.warnCfg_wEcc (s : State) : s.warnCfg.wEcc = s.wEcc := rfl
@[simp] theorem State.warnCfg_wCfg (s : State) : s.warnCfg.wCfg = true := rfl
@[simp] theorem State.warnCfg_fs (s : State) : s.warnCfg.fs = s.fs := rfl
@[simp] theorem State.warnCfg_np (s : State) : s.warnCfg.np = s.np := rfl
@[simp] theorem State.warnCfg_att (s : State) : s.warnCfg.att = s.att := rfl
@[simp] theorem State.warnCfg_win (s : State) : s.warnCfg.win = s.win := rfl
@[simp] theorem State.warnCfg_subp (s : State) : s.warnCfg.subp = s.subp := rfl
@[simp] theorem State.warnCfg_stw (s : State) : s.warnCfg.stw = s.stw := rfl
@[simp] theorem State.warnCfg_cfg (s : State) : s.warnCfg.cfg = s.cfg := rfl
@[simp] theorem State.warnCfg_script (s : State) : s.warnCfg.script = s.script := rfl
@[simp] theorem State.warnCfg_reqs (s : State) : s.warnCfg.reqs = s.reqs := rfl
@[simp] theorem State.warnCfg_cmds (s : State) : s.warnCfg.cmds = s.cmds := rfl
@[simp] theorem State.warnCfg_draws (s : State) : s.warnCfg.draws = s.draws := rfl

/-! ## State.warnEcc -/

@[simp] theorem State.warnEcc_ee (s : State) : s.warnEcc.ee = s.ee := rfl
@[simp] theorem State.warnEcc_fb (s : State) : s.warnEcc.fb = s.fb := rfl
@[simp] theorem State.warnEcc_tf (s : State) : s.warnEcc.tf = s.tf := rfl
@[simp] theorem State.warnEcc_cal (s : State) : s.warnEcc.cal = s.cal := rfl
@[simp] theorem State.warnEcc_ta (s : State) : s.warnEcc.ta = s.ta := rfl
@[simp] theorem State.warnEcc_xr (s : State) : s.warnEcc.xr = s.xr := rfl
@[simp] theorem State.warnEcc_fr (s : State) : s.warnEcc.fr = s.fr := rfl
@[simp] theorem State.warnEcc_emis (s : State) : s.warnEcc.emis = s.emis := rfl
@[simp] theorem State.warnEcc_status (s : State) : s.warnEcc.status = s.status := rfl
@[simp] theorem State.warnEcc_inited (s : State) : s.warnEcc.inited = s.inited := rfl
@[simp] theorem State.warnEcc_eeState (s : State) : s.warnEcc.eeState = s.eeState := rfl
@[simp] theorem State.warnEcc_calValid (s : State) : s.warnEcc.calValid = s.calValid := rfl
@[simp] theorem State.warnEcc_fbValid (s : State) : s.warnEcc.fbValid = s.fbValid := rfl
@[simp] theorem State.warnEcc_tfValid (s : State) : s.warnEcc.tfValid = s.tfValid := rfl
@[simp] theorem State.warnEcc_taValid (s : State) : s.warnEcc.taValid = s.taValid := rfl
@[simp] theorem State.warnEcc_faulted (s : State) : s.warnEcc.faulted = s.faulted := rfl
@[simp] theorem State.warnEcc_eccst (s : State) : s.warnEcc.eccst = s.eccst := rfl
@[simp] theorem State.warnEcc_wEcc (s : State) : s.warnEcc.wEcc = (s.wEcc || decide (s.eccst = .corrected)) := rfl
@[simp] theorem State.warnEcc_wCfg (s : State) : s.warnEcc.wCfg = s.wCfg := rfl
@[simp] theorem State.warnEcc_fs (s : State) : s.warnEcc.fs = s.fs := rfl
@[simp] theorem State.warnEcc_np (s : State) : s.warnEcc.np = s.np := rfl
@[simp] theorem State.warnEcc_att (s : State) : s.warnEcc.att = s.att := rfl
@[simp] theorem State.warnEcc_win (s : State) : s.warnEcc.win = s.win := rfl
@[simp] theorem State.warnEcc_subp (s : State) : s.warnEcc.subp = s.subp := rfl
@[simp] theorem State.warnEcc_stw (s : State) : s.warnEcc.stw = s.stw := rfl
@[simp] theorem State.warnEcc_cfg (s : State) : s.warnEcc.cfg = s.cfg := rfl
@[simp] theorem State.warnEcc_script (s : State) : s.warnEcc.script = s.script := rfl
@[simp] theorem State.warnEcc_reqs (s : State) : s.warnEcc.reqs = s.reqs := rfl
@[simp] theorem State.warnEcc_cmds (s : State) : s.warnEcc.cmds = s.cmds := rfl
@[simp] theorem State.warnEcc_draws (s : State) : s.warnEcc.draws = s.draws := rfl

/-! ## State.repair -/

@[simp] theorem State.repair_ee (s : State) : s.repair.ee = s.ee := rfl
@[simp] theorem State.repair_fb (s : State) : s.repair.fb = s.fb := rfl
@[simp] theorem State.repair_tf (s : State) : s.repair.tf = repairFrame s.cfg.num s.cal s.tf s.free := rfl
@[simp] theorem State.repair_cal (s : State) : s.repair.cal = s.cal := rfl
@[simp] theorem State.repair_ta (s : State) : s.repair.ta = s.ta := rfl
@[simp] theorem State.repair_xr (s : State) : s.repair.xr = s.xr := rfl
@[simp] theorem State.repair_fr (s : State) : s.repair.fr = s.fr := rfl
@[simp] theorem State.repair_emis (s : State) : s.repair.emis = s.emis := rfl
@[simp] theorem State.repair_status (s : State) : s.repair.status = .ok := rfl
@[simp] theorem State.repair_inited (s : State) : s.repair.inited = s.inited := rfl
@[simp] theorem State.repair_eeState (s : State) : s.repair.eeState = s.eeState := rfl
@[simp] theorem State.repair_calValid (s : State) : s.repair.calValid = s.calValid := rfl
@[simp] theorem State.repair_fbValid (s : State) : s.repair.fbValid = s.fbValid := rfl
@[simp] theorem State.repair_tfValid (s : State) : s.repair.tfValid = s.tfValid := rfl
@[simp] theorem State.repair_taValid (s : State) : s.repair.taValid = s.taValid := rfl
@[simp] theorem State.repair_faulted (s : State) : s.repair.faulted = s.faulted := rfl
@[simp] theorem State.repair_eccst (s : State) : s.repair.eccst = s.eccst := rfl
@[simp] theorem State.repair_wEcc (s : State) : s.repair.wEcc = s.wEcc := rfl
@[simp] theorem State.repair_wCfg (s : State) : s.repair.wCfg = s.wCfg := rfl
@[simp] theorem State.repair_fs (s : State) : s.repair.fs = s.fs := rfl
@[simp] theorem State.repair_np (s : State) : s.repair.np = s.np := rfl
@[simp] theorem State.repair_att (s : State) : s.repair.att = s.att := rfl
@[simp] theorem State.repair_win (s : State) : s.repair.win = s.win := rfl
@[simp] theorem State.repair_subp (s : State) : s.repair.subp = s.subp := rfl
@[simp] theorem State.repair_stw (s : State) : s.repair.stw = s.stw := rfl
@[simp] theorem State.repair_cfg (s : State) : s.repair.cfg = s.cfg := rfl
@[simp] theorem State.repair_script (s : State) : s.repair.script = s.script := rfl
@[simp] theorem State.repair_reqs (s : State) : s.repair.reqs = s.reqs := rfl
@[simp] theorem State.repair_cmds (s : State) : s.repair.cmds = s.cmds := rfl
@[simp] theorem State.repair_draws (s : State) : s.repair.draws = s.draws + 2 := rfl

/-! ## State.calculate -/

@[simp] theorem State.calculate_ee (s : State) (eps tr : FVal) : (s.calculate eps tr).ee = s.ee := rfl
@[simp] theorem State.calculate_fb (s : State) (eps tr : FVal) : (s.calculate eps tr).fb = s.fb := rfl
@[simp] theorem State.calculate_tf (s : State) (eps tr : FVal) : (s.calculate eps tr).tf = frameTemps s.cfg s.cal s.fb eps tr s.setAmbient.free := by rw [State.calculate]; simp
@[simp] theorem State.calculate_cal (s : State) (eps tr : FVal) : (s.calculate eps tr).cal = s.cal := rfl
@[simp] theorem State.calculate_ta (s : State) (eps tr : FVal) : (s.calculate eps tr).ta = (frameTa s.cfg s.cal s.fb).toWord (s.free 0) := rfl
@[simp] theorem State.calculate_xr (s : State) (eps tr : FVal) : (s.calculate eps tr).xr = s.xr := rfl
@[simp] theorem State.calculate_fr (s : State) (eps tr : FVal) : (s.calculate eps tr).fr = s.fr := rfl
@[simp] theorem State.calculate_emis (s : State) (eps tr : FVal) : (s.calculate eps tr).emis = s.emis := rfl
@[simp] theorem State.calculate_status (s : State) (eps tr : FVal) : (s.calculate eps tr).status = .ok := rfl
@[simp] theorem State.calculate_inited (s : State) (eps tr : FVal) : (s.calculate eps tr).inited = s.inited := rfl
@[simp] theorem State.calculate_eeState (s : State) (eps tr : FVal) : (s.calculate eps tr).eeState = s.eeState := rfl
@[simp] theorem State.calculate_calValid (s : State) (eps tr : FVal) : (s.calculate eps tr).calValid = s.calValid := rfl
@[simp] theorem State.calculate_fbValid (s : State) (eps tr : FVal) : (s.calculate eps tr).fbValid = s.fbValid := rfl
@[simp] theorem State.calculate_tfValid (s : State) (eps tr : FVal) : (s.calculate eps tr).tfValid = true := rfl
@[simp] theorem State.calculate_taValid (s : State) (eps tr : FVal) : (s.calculate eps tr).taValid = true := rfl
@[simp] theorem State.calculate_faulted (s : State) (eps tr : FVal) : (s.calculate eps tr).faulted = s.faulted := rfl
@[simp] theorem State.calculate_eccst (s : State) (eps tr : FVal) : (s.calculate eps tr).eccst = s.eccst := rfl
@[simp] theorem State.calculate_wEcc (s : State) (eps tr : FVal) : (s.calculate eps tr).wEcc = s.wEcc := rfl
@[simp] theorem State.calculate_wCfg (s : State) (eps tr : FVal) : (s.calculate eps tr).wCfg = s.wCfg := rfl
@[simp] theorem State.calculate_fs (s : State) (eps tr : FVal) : (s.calculate eps tr).fs = s.fs := rfl
@[simp] theorem State.calculate_np (s : State) (eps tr : FVal) : (s.calculate eps tr).np = s.np := rfl
@[simp] theorem State.calculate_att (s : State) (eps tr : FVal) : (s.calculate eps tr).att = s.att := rfl
@[simp] theorem State.calculate_win (s : State) (eps tr : FVal) : (s.calculate eps tr).win = s.win := rfl
@[simp] theorem State.calculate_subp (s : State) (eps tr : FVal) : (s.calculate eps tr).subp = s.subp := rfl
@[simp] theorem State.calculate_stw (s : State) (eps tr : FVal) : (s.calculate eps tr).stw = s.stw := rfl
@[simp] theorem State.calculate_cfg (s : State) (eps tr : FVal) : (s.calculate eps tr).cfg = s.cfg := rfl
@[simp] theorem State.calculate_script (s : State) (eps tr : FVal) : (s.calculate eps tr).script = s.script := rfl
@[simp] theorem State.calculate_reqs (s : State) (eps tr : FVal) : (s.calculate eps tr).reqs = s.reqs := rfl
@[simp] theorem State.calculate_cmds (s : State) (eps tr : FVal) : (s.calculate eps tr).cmds = s.cmds := rfl
@[simp] theorem State.calculate_draws (s : State) (eps tr : FVal) : (s.calculate eps tr).draws = s.draws + 1 + Config.npix := rfl

/-! ## State.hostReset -/

@[simp] theorem State.hostReset_ee (s : State) : s.hostReset.ee = [] := rfl
@[simp] theorem State.hostReset_fb (s : State) : s.hostReset.fb = [] := rfl
@[simp] theorem State.hostReset_tf (s : State) : s.hostReset.tf = [] := rfl
@[simp] theorem State.hostReset_cal (s : State) : s.hostReset.cal = calAtReset := rfl
@[simp] theorem State.hostReset_ta (s : State) : s.hostReset.ta = fwordAtReset := rfl
@[simp] theorem State.hostReset_xr (s : State) : s.hostReset.xr = 0 := rfl
@[simp] theorem State.hostReset_fr (s : State) : s.hostReset.fr = .free (s.free 0) := rfl
@[simp] theorem State.hostReset_emis (s : State) : s.hostReset.emis = s.cfg.emissivityStored := rfl
@[simp] theorem State.hostReset_status (s : State) : s.hostReset.status = .ok := rfl
@[simp] theorem State.hostReset_inited (s : State) : s.hostReset.inited = false := rfl
@[simp] theorem State.hostReset_eeState (s : State) : s.hostReset.eeState = .empty := rfl
@[simp] theorem State.hostReset_calValid (s : State) : s.hostReset.calValid = false := rfl
@[simp] theorem State.hostReset_fbValid (s : State) : s.hostReset.fbValid = false := rfl
@[simp] theorem State.hostReset_tfValid (s : State) : s.hostReset.tfValid = false := rfl
@[simp] theorem State.hostReset_taValid (s : State) : s.hostReset.taValid = false := rfl
@[simp] theorem State.hostReset_faulted (s : State) : s.hostReset.faulted = false := rfl
@[simp] theorem State.hostReset_eccst (s : State) : s.hostReset.eccst = .clean := rfl
@[simp] theorem State.hostReset_wEcc (s : State) : s.hostReset.wEcc = false := rfl
@[simp] theorem State.hostReset_wCfg (s : State) : s.hostReset.wCfg = false := rfl
@[simp] theorem State.hostReset_fs (s : State) : s.hostReset.fs = .idle := rfl
@[simp] theorem State.hostReset_np (s : State) : s.hostReset.np = 0 := rfl
@[simp] theorem State.hostReset_att (s : State) : s.hostReset.att = 0 := rfl
@[simp] theorem State.hostReset_win (s : State) : s.hostReset.win = 0 := rfl
@[simp] theorem State.hostReset_subp (s : State) : s.hostReset.subp = false := rfl
@[simp] theorem State.hostReset_stw (s : State) : s.hostReset.stw = 0 := rfl
@[simp] theorem State.hostReset_cfg (s : State) : s.hostReset.cfg = s.cfg := rfl
@[simp] theorem State.hostReset_script (s : State) : s.hostReset.script = s.script := rfl
@[simp] theorem State.hostReset_reqs (s : State) : s.hostReset.reqs = s.reqs := rfl
@[simp] theorem State.hostReset_cmds (s : State) : s.hostReset.cmds = s.cmds := rfl
@[simp] theorem State.hostReset_draws (s : State) : s.hostReset.draws = s.draws + 1 := rfl

end Sys2Proof.Machine
end

