-- ==== Sys2Proof/Laws/Ops.lean ====
section
/-! SUPPORT. One lemma for each shared operation that says once everything it can do: a command's checks, the end of an
extraction, the transport port. Proofs cite these instead of unfolding the operations. -/

namespace Sys2Proof.Machine

/-! ## The checks of a command (R293) -/

/-- Everything a command can do: it is refused by the first check that fails, or its pseudocode runs. -/
theorem State.command_cases (s : State) (legal pre : Bool) (body : State → State) :
    (s.faulted = true ∧ s.command legal pre body = s.refuse .halted)
    ∨ (s.faulted = false ∧ legal = false ∧ s.command legal pre body = s.refuse .illegalCommand)
    ∨ (s.faulted = false ∧ legal = true ∧ pre = false ∧ s.command legal pre body = s.refuse .badState)
    ∨ (s.faulted = false ∧ legal = true ∧ pre = true ∧ s.command legal pre body = body s) := by
  unfold State.command
  cases s.faulted <;> cases legal <;> cases pre <;> simp

theorem State.command_faulted {s : State} (h : s.faulted = true) (legal pre : Bool) (body : State → State) :
    s.command legal pre body = s.refuse .halted := by
  simp [State.command, h]

theorem State.command_illegal {s : State} (h : s.faulted = false) (pre : Bool) (body : State → State) :
    s.command false pre body = s.refuse .illegalCommand := by
  simp [State.command, h]

theorem State.command_badState {s : State} (h : s.faulted = false) (body : State → State) :
    s.command true false body = s.refuse .badState := by
  simp [State.command, h]

/-- A command all of whose checks pass runs its pseudocode. -/
theorem State.command_pass {s : State} (h : s.faulted = false) (body : State → State) :
    s.command true true body = body s := by
  simp [State.command, h]

/-- A property that refusing keeps and that the pseudocode establishes holds after the command. -/
theorem State.command_induct {P : State → Prop} {s : State} {legal pre : Bool} {body : State → State}
    (hrefuse : ∀ x, x = .halted ∨ x = .illegalCommand ∨ x = .badState → P (s.refuse x))
    (hbody : s.faulted = false → legal = true → pre = true → P (body s)) : P (s.command legal pre body) := by
  rcases State.command_cases s legal pre body with ⟨_, h⟩ | ⟨_, _, h⟩ | ⟨_, _, _, h⟩ | ⟨hf, hl, hp, h⟩ <;> rw [h]
  · exact hrefuse _ (by simp)
  · exact hrefuse _ (by simp)
  · exact hrefuse _ (by simp)
  · exact hbody hf hl hp

/-! ## The end of an extraction (R121, R125, R127) -/

/-- Everything the end of an extraction can do. -/
theorem State.extracted_cases (s : State) (v : Option Status) (z : Int) :
    (∃ x, v = some x ∧ s.extracted v z = s.raise x)
    ∨ (v = none ∧ s.extracted v z = { s with xr := BitVec.ofInt 64 z, status := .ok }) := by
  cases v with
  | none => exact .inr ⟨rfl, rfl⟩
  | some x => exact .inl ⟨x, rfl, rfl⟩

/-- The only violation an address check finds is AddressOutOfRange (R123). -/
theorem addressViolation_eq (c : Config) (d : Desc) :
    addressViolation c d = if c.inImage d.addr then none else some .addressOutOfRange := rfl

/-! ## The transport port (R62, R68) -/

/-- An ok answer to a request for n words carries n words. -/
@[simp] theorem fillWords_length (k n j : Nat) (ws : List Word) : (fillWords k n j ws).length = n := by
  induction n generalizing j ws with
  | zero => cases ws <;> rfl
  | succ n ih => cases ws <;> simp [fillWords, ih]

/-- An answer that carries enough words is cut to the words asked for. -/
theorem fillWords_of_le (k n j : Nat) (ws : List Word) (h : n ≤ ws.length) : fillWords k n j ws = ws.take n := by
  induction n generalizing j ws with
  | zero => cases ws <;> simp [fillWords]
  | succ n ih =>
    cases ws with
    | nil => simp at h
    | cons w ws => simp [fillWords, ih (j + 1) ws (by simpa using h)]

/-- The words of an answered request are as many as were asked for. -/
theorem State.wordsAnswered_length {s : State} {n : Nat} {ws : List Word} (h : s.wordsAnswered n = some ws) :
    ws.length = n := by
  unfold State.wordsAnswered at h
  split at h
  · cases h
  · cases h; simp

/-- A request that the script answers with err. -/
theorem State.wordsAnswered_err {s : State} {n : Nat} {rest : List BusAnswer} (h : s.script = .err :: rest) :
    s.wordsAnswered n = none := by
  simp [State.wordsAnswered, State.nextAnswer, h]

/-- A request that the script answers with ok and enough words. -/
theorem State.wordsAnswered_ok {s : State} {n : Nat} {ws : List Word} {rest : List BusAnswer}
    (h : s.script = .ok ws :: rest) (hn : n ≤ ws.length) : s.wordsAnswered n = some (ws.take n) := by
  simp [State.wordsAnswered, State.nextAnswer, h, fillWords_of_le _ _ _ _ hn]

@[simp] theorem State.busRead_fst (s : State) (reg : Word) (n : Nat) :
    (s.busRead reg n).1 = s.wordsAnswered n := rfl
@[simp] theorem State.busRead_snd (s : State) (reg : Word) (n : Nat) :
    (s.busRead reg n).2 = s.asked (.read s.cfg.sa reg n) := rfl
@[simp] theorem State.busWrite_fst (s : State) (reg v : Word) :
    (s.busWrite reg v).1 = (s.wordsAnswered 0).isSome := rfl
@[simp] theorem State.busWrite_snd (s : State) (reg v : Word) :
    (s.busWrite reg v).2 = s.asked (.write s.cfg.sa reg v) := rfl
@[simp] theorem State.busInit_fst (s : State) : s.busInit.1 = (s.wordsAnswered 0).isSome := rfl
@[simp] theorem State.busInit_snd (s : State) : s.busInit.2 = s.asked (.init s.cfg.freqKhz) := rfl

/-! ## The image capture (R190) -/

/-- Everything the capture can do. -/
theorem State.capture_cases (s : State) :
    (s.wordsAnswered 832 = none
      ∧ s.capture = { s.asked (.read s.cfg.sa s.cfg.eeAddr 832) with
          eeState := .empty, status := .transportError, faulted := s.faulted || false, fs := .idle })
    ∨ (∃ ws, s.wordsAnswered 832 = some ws ∧ ws.length = 832
      ∧ s.capture = { s.asked (.read s.cfg.sa s.cfg.eeAddr 832) with
          ee := Memory.ofList ws, eeState := .raw, eccst := .clean, status := .ok }) := by
  unfold State.capture State.busRead Config.eeWords
  cases h : s.wordsAnswered 832 with
  | none => exact .inl ⟨rfl, rfl⟩
  | some ws => exact .inr ⟨ws, rfl, State.wordsAnswered_length h, rfl⟩

/-! ## The extraction (R160) -/

/-- Everything the extraction can do. -/
theorem State.extract_cases (s : State) :
    (∃ x, calxFailure s.cfg s.ee = some x ∧ s.extract = s.raise x)
    ∨ (calxFailure s.cfg s.ee = none ∧ s.extract = s.commitCal) := by
  unfold State.extract
  cases h : calxFailure s.cfg s.ee with
  | none => exact .inr ⟨rfl, rfl⟩
  | some x => exact .inl ⟨x, rfl, rfl⟩

/-- Everything `shiftInt` can give: the product with 2^e where that is an integer (R161, R168 to R170; log 19). -/
theorem shiftInt_eq_some {z e x : Int} :
    shiftInt z e = some x ↔ (0 ≤ e ∧ x = z * 2 ^ e.toNat) ∨ (e < 0 ∧ x * 2 ^ (-e).toNat = z) := by
  have hpos : (0 : Int) < 2 ^ (-e).toNat := by positivity
  unfold shiftInt
  split
  · next h =>
    simp only [Option.some.injEq]
    omega
  · next h =>
    split
    · next hd =>
      simp only [Option.some.injEq]
      have hz := Int.ediv_mul_cancel (Int.dvd_of_emod_eq_zero hd)
      constructor
      · rintro rfl
        exact .inr ⟨by omega, hz⟩
      · rintro (⟨h', -⟩ | ⟨-, hx⟩)
        · exact absurd h' h
        · rw [← hx, Int.mul_ediv_cancel _ (ne_of_gt hpos)]
    · next hd =>
      refine ⟨fun hn => absurd hn (by simp), ?_⟩
      rintro (⟨h', -⟩ | ⟨-, hx⟩)
      · exact absurd h' h
      · rw [← hx, Int.mul_emod_left] at hd
        exact absurd rfl hd

/-- CALX meets no contract violation exactly when no row it evaluates has one (R162). -/
theorem tableViolation_eq_none {c : Config} :
    tableViolation c = none
      ↔ (∀ n ∈ valueRows, valueViolation c n = none) ∧ ∀ n ∈ fieldRows, fieldViolation c n = none := by
  unfold tableViolation
  rw [Option.or_eq_none_iff, List.findSome?_eq_none_iff, List.findSome?_eq_none_iff]

/-! ## The scan (R150)

`scanImage` and `scanWorst` are irreducible, so that no unifier evaluates them; these lemmas say what they are. -/

/-- Reading the image after the scan. -/
theorem read_scanImage (c : Config) (ee : Memory Word) (i : Nat) :
    (scanImage c ee).read i = if i < 832 then scanWord c ee i else Memory.unlisted Word := by
  unfold scanImage
  exact Memory.read_ofFn 832 (scanWord c ee) i

theorem wf_scanImage (c : Config) (ee : Memory Word) : (scanImage c ee).wf = true := by
  unfold scanImage
  exact Memory.wf_ofFn _ _

theorem below_scanImage (c : Config) (ee : Memory Word) : (scanImage c ee).below 832 = true := by
  unfold scanImage
  exact Memory.below_ofFn _ _

/-- The worst status is a fold over the indices the scan visits. -/
theorem scanWorst_eq (c : Config) (ee : Memory Word) :
    scanWorst c ee = scanIndices.foldl (fun worst i => worst.max (hdec c (ee.read i)).2) .clean := by
  unfold scanWorst
  rfl

/-- The indices the scan visits (R140). -/
theorem scanned_iff {i : Nat} : scanned i = true ↔ 16 ≤ i ∧ i ≤ 831 := by
  rw [scanned, Bool.and_eq_true, decide_eq_true_iff, decide_eq_true_iff]
  rfl

theorem mem_scanIndices {i : Nat} : i ∈ scanIndices ↔ 16 ≤ i ∧ i ≤ 831 := by
  rw [scanIndices, List.mem_filter, List.mem_range, scanned_iff]
  exact ⟨fun h => h.2, fun h => ⟨Nat.lt_of_le_of_lt h.2 (by decide), h⟩⟩

/-! ## The configuration steps (R266) -/

/-- What the configuration steps may change: the transport's answers and requests, and WARN.W_CFG. -/
theorem State.runCfg_frame (l : List Rmw) (s : State) :
    State.runCfg l s =
      { s with script := (State.runCfg l s).script, reqs := (State.runCfg l s).reqs,
               wCfg := (State.runCfg l s).wCfg } := by
  induction l generalizing s with
  | nil => rfl
  | cons m rest ih =>
    unfold State.runCfg State.busRead State.busWrite
    cases h : s.wordsAnswered 1 with
    | none => rfl
    | some ws =>
      cases h2 : ((s.asked (.read s.cfg.sa m.reg 1)).wordsAnswered 0).isSome with
      | false => simp only [h2]; rfl
      | true =>
        simp only [h2]
        rw [ih]
        rfl

/-- The frame of the configuration steps, field by field. -/
theorem State.runCfg_fields (l : List Rmw) (s : State) :
    (State.runCfg l s).ee = s.ee ∧ (State.runCfg l s).fb = s.fb ∧ (State.runCfg l s).tf = s.tf
      ∧ (State.runCfg l s).cal = s.cal ∧ (State.runCfg l s).cfg = s.cfg ∧ (State.runCfg l s).status = s.status := by
  rw [State.runCfg_frame]
  exact ⟨rfl, rfl, rfl, rfl, rfl, rfl⟩

end Sys2Proof.Machine
end

