-- ==== Sys2Proof/Laws/FrameReader.lean ====
section
/-! SUPPORT. What one step of the frame reader can do (43_frame_reader R195 to R202), and the induction principle for a
whole acquisition. -/

namespace Sys2Proof.Machine

/-- The request a step of the machine issues (R196 to R201); of no meaning when IDLE. -/
def State.frRequest (s : State) : BusReq :=
  match s.fs with
  | .idle => .init s.cfg.freqKhz
  | .pollStatus => .read s.cfg.sa s.cfg.regStatus 1
  | .clearFlag => .write s.cfg.sa s.cfg.regClear s.cfg.valClear
  | .readWindows =>
    if s.win < 6 then .read s.cfg.sa (s.cfg.winAddr s.subp s.win) 32 else .read s.cfg.sa s.cfg.tailAddr 48
  | .repoll => .read s.cfg.sa s.cfg.regStatus 1
  | .readCtrl => .read s.cfg.sa s.cfg.regCtrl 1

/-- Everything one step of the machine can do when it is not IDLE: its request fails, or it goes on as its state says. -/
theorem State.frStep_cases (s : State) :
    (s.fs = .idle ∧ s.frStep = s)
    ∨ (s.fs ≠ .idle ∧ s.frStep = (s.asked s.frRequest).busFailed)
    ∨ (∃ ws, s.fs = .pollStatus ∧ s.wordsAnswered 1 = some ws
        ∧ s.frStep = (s.asked (.read s.cfg.sa s.cfg.regStatus 1)).polled (firstWord ws))
    ∨ (s.fs = .clearFlag ∧ (s.wordsAnswered 0).isSome = true
        ∧ s.frStep = { s.asked (.write s.cfg.sa s.cfg.regClear s.cfg.valClear) with win := 0, fs := .readWindows })
    ∨ (∃ ws, s.fs = .readWindows ∧ s.win < 6 ∧ s.wordsAnswered 32 = some ws
        ∧ s.frStep = (s.asked (.read s.cfg.sa (s.cfg.winAddr s.subp s.win) 32)).windowRead ws)
    ∨ (∃ ws, s.fs = .readWindows ∧ 6 ≤ s.win ∧ s.wordsAnswered 48 = some ws
        ∧ s.frStep = (s.asked (.read s.cfg.sa s.cfg.tailAddr 48)).tailRead ws)
    ∨ (∃ ws, s.fs = .repoll ∧ s.wordsAnswered 1 = some ws
        ∧ s.frStep = (s.asked (.read s.cfg.sa s.cfg.regStatus 1)).repolled (firstWord ws))
    ∨ (∃ ws, s.fs = .readCtrl ∧ s.wordsAnswered 1 = some ws
        ∧ s.frStep = (s.asked (.read s.cfg.sa s.cfg.regCtrl 1)).ctrlRead (firstWord ws)) := by
  unfold State.frStep State.frRequest State.busRead State.busWrite Config.nWin Config.winWords Config.tailWords
  cases hfs : s.fs with
  | idle => exact .inl ⟨rfl, rfl⟩
  | pollStatus =>
    cases h : s.wordsAnswered 1 with
    | none => exact .inr (.inl ⟨by simp, rfl⟩)
    | some ws => exact .inr (.inr (.inl ⟨ws, rfl, rfl, rfl⟩))
  | clearFlag =>
    cases h : (s.wordsAnswered 0).isSome with
    | false => exact .inr (.inl ⟨by simp, rfl⟩)
    | true => exact .inr (.inr (.inr (.inl ⟨rfl, rfl, rfl⟩)))
  | readWindows =>
    by_cases hw : s.win < 6
    · cases h : s.wordsAnswered 32 with
      | none =>
        exact .inr (.inl ⟨by simp, by simp only [hw, if_true]⟩)
      | some ws => exact .inr (.inr (.inr (.inr (.inl ⟨ws, rfl, hw, rfl, by simp only [hw, if_true]⟩))))
    · cases h : s.wordsAnswered 48 with
      | none => exact .inr (.inl ⟨by simp, by simp only [hw, if_false]⟩)
      | some ws => exact .inr (.inr (.inr (.inr (.inr (.inl ⟨ws, rfl, by omega, rfl, by simp only [hw, if_false]⟩)))))
  | repoll =>
    cases h : s.wordsAnswered 1 with
    | none => exact .inr (.inl ⟨by simp, rfl⟩)
    | some ws => exact .inr (.inr (.inr (.inr (.inr (.inr (.inl ⟨ws, rfl, rfl, rfl⟩))))))
  | readCtrl =>
    cases h : s.wordsAnswered 1 with
    | none => exact .inr (.inl ⟨by simp, rfl⟩)
    | some ws => exact .inr (.inr (.inr (.inr (.inr (.inr (.inr ⟨ws, rfl, rfl, rfl⟩))))))

/-- Everything the poll can do once the status word has come (R196). -/
theorem State.polled_cases (s : State) (w : Word) :
    (readyBit s.cfg w = true
      ∧ s.polled w = { s with stw := w, subp := parityBit s.cfg w, fs := .clearFlag })
    ∨ (readyBit s.cfg w = false ∧ s.np + 1 = 5
      ∧ s.polled w = { s with stw := w, np := s.np + 1 }.raise .frameTimeout)
    ∨ (readyBit s.cfg w = false ∧ s.np + 1 ≠ 5 ∧ s.polled w = { s with stw := w, np := s.np + 1 }) := by
  unfold State.polled Config.pollMax
  cases h : readyBit s.cfg w with
  | true => simp
  | false => by_cases hn : s.np + 1 = 5 <;> simp [hn]

/-- Everything the re-poll can do once the status word has come (R200). -/
theorem State.repolled_cases (s : State) (w : Word) :
    (readyBit s.cfg w = false
      ∧ s.repolled w = { s with stw := w, subp := parityBit s.cfg w, att := s.att + 1, fs := .readCtrl })
    ∨ (readyBit s.cfg w = true ∧ s.att + 1 < 5
      ∧ s.repolled w = { s with stw := w, subp := parityBit s.cfg w, att := s.att + 1, fs := .clearFlag })
    ∨ (readyBit s.cfg w = true ∧ 5 ≤ s.att + 1
      ∧ s.repolled w =
          { s with stw := w, subp := parityBit s.cfg w, att := s.att + 1 }.raise .frameTimeout) := by
  unfold State.repolled Config.attMax
  cases h : readyBit s.cfg w with
  | false => simp
  | true => by_cases hn : s.att + 1 < 5 <;> (simp [hn]; try omega)

/-- What one step of the machine leaves alone. -/
theorem State.frStep_frame (s : State) :
    s.frStep = { s with
      fb := s.frStep.fb, status := s.frStep.status, fbValid := s.frStep.fbValid, fs := s.frStep.fs,
      np := s.frStep.np, att := s.frStep.att, win := s.frStep.win, subp := s.frStep.subp, stw := s.frStep.stw,
      script := s.frStep.script, reqs := s.frStep.reqs } := by
  rcases State.frStep_cases s with ⟨_, h⟩ | ⟨_, h⟩ | ⟨ws, _, _, h⟩ | ⟨_, _, h⟩ | ⟨ws, _, _, _, h⟩
    | ⟨ws, _, _, _, h⟩ | ⟨ws, _, _, h⟩ | ⟨ws, _, _, h⟩
  · rw [h]
  · rw [h]; simp [State.busFailed, State.raise, State.asked, Status.contract]
  · rw [h]
    rcases State.polled_cases (s.asked (.read s.cfg.sa s.cfg.regStatus 1)) (firstWord ws)
      with ⟨_, h'⟩ | ⟨_, _, h'⟩ | ⟨_, _, h'⟩ <;> rw [h'] <;> simp [State.raise, State.asked, Status.contract]
  · rw [h]; rfl
  · rw [h]; rfl
  · rw [h]; rfl
  · rw [h]
    rcases State.repolled_cases (s.asked (.read s.cfg.sa s.cfg.regStatus 1)) (firstWord ws)
      with ⟨_, h'⟩ | ⟨_, _, h'⟩ | ⟨_, _, h'⟩ <;> rw [h'] <;> simp [State.raise, State.asked, Status.contract]
  · rw [h]; rfl

/-- Every step that is taken issues exactly one request (R195). -/
theorem State.frStep_reqs {s : State} (h : s.fs ≠ .idle) : s.frStep.reqs = s.frRequest :: s.reqs := by
  rcases State.frStep_cases s with ⟨h', _⟩ | ⟨_, h'⟩ | ⟨ws, hf, _, h'⟩ | ⟨hf, _, h'⟩ | ⟨ws, hf, hw, _, h'⟩
    | ⟨ws, hf, hw, _, h'⟩ | ⟨ws, hf, _, h'⟩ | ⟨ws, hf, _, h'⟩
  · exact absurd h' h
  · rw [h']; rfl
  · rw [h']
    rcases State.polled_cases (s.asked (.read s.cfg.sa s.cfg.regStatus 1)) (firstWord ws)
      with ⟨_, h''⟩ | ⟨_, _, h''⟩ | ⟨_, _, h''⟩ <;> rw [h''] <;> simp [State.frRequest, hf, State.asked, State.raise]
  · rw [h']; simp [State.frRequest, hf, State.asked]
  · rw [h']; simp [State.frRequest, hf, hw, State.asked, State.windowRead]
  · rw [h']; simp [State.frRequest, hf, show ¬ s.win < 6 by omega, State.asked, State.tailRead]
  · rw [h']
    rcases State.repolled_cases (s.asked (.read s.cfg.sa s.cfg.regStatus 1)) (firstWord ws)
      with ⟨_, h''⟩ | ⟨_, _, h''⟩ | ⟨_, _, h''⟩ <;> rw [h''] <;> simp [State.frRequest, hf, State.asked, State.raise]
  · rw [h']; simp [State.frRequest, hf, State.asked, State.ctrlRead]

/-- A property that every step of the machine keeps holds after a run of it. -/
theorem State.frRun_induct {P : State → Prop} (hstep : ∀ u, u.fs ≠ .idle → P u → P u.frStep) (k : Nat) {s : State}
    (h : P s) : P (State.frRun k s) := by
  induction k generalizing s with
  | zero => exact h
  | succ k ih =>
    unfold State.frRun
    split
    · exact h
    · next hi => exact ih (hstep s hi h)

/-- A run that has come to IDLE stays there. -/
theorem State.frRun_idle {s : State} (h : s.fs = .idle) (k : Nat) : State.frRun k s = s := by
  cases k with
  | zero => rfl
  | succ k => simp [State.frRun, h]

/-- One step of a run. -/
theorem State.frRun_succ {s : State} (h : s.fs ≠ .idle) (k : Nat) :
    State.frRun (k + 1) s = State.frRun k s.frStep := by
  simp [State.frRun, h]

/-- What a run of the machine leaves alone: everything but FB, FB_VALID, STATUS, its own registers, and the transport's
answers and requests. -/
theorem State.frRun_frame (k : Nat) (s : State) :
    State.frRun k s = { s with
      fb := (State.frRun k s).fb, status := (State.frRun k s).status, fbValid := (State.frRun k s).fbValid
      fs := (State.frRun k s).fs, np := (State.frRun k s).np, att := (State.frRun k s).att
      win := (State.frRun k s).win, subp := (State.frRun k s).subp, stw := (State.frRun k s).stw
      script := (State.frRun k s).script, reqs := (State.frRun k s).reqs } := by
  induction k generalizing s with
  | zero => rfl
  | succ k ih =>
    by_cases hi : s.fs = .idle
    · rw [State.frRun_idle hi]
    · rw [State.frRun_succ hi, ih, State.frStep_frame]

end Sys2Proof.Machine
end

