-- ==== Sys2Proof/Laws/PerInstr.lean ====
section
/-! SUPPORT. What is said of every command, constructor by constructor: its encoding is one command word and exactly as
many further words as R100 gives its opcode (30_encoding R90, R104). -/

namespace Sys2Proof.Laws.EncodedLength

/-- The words of a command: a command word, then as many words as its opcode says, at most two (R90, R104). -/
def Statement (i : Instr) : Prop :=
  ∃ c rest, encode i = c :: rest ∧ rest.length = wordsAfterCw c ∧ rest.length ≤ 2

theorem xraw (d : Desc) : Statement (.xraw d) :=
  ⟨_, _, rfl, (wordsAfterCw_of_opRow (r := ⟨0x01, .xraw, "XRAW", 1, 0x04000000, 0xFFFFFFFF⟩)
    (by rw [cwOp_cw]; rfl)).symm, by simp⟩

theorem xsgl (sgn : Bool) (d : Desc) : Statement (.xsgl sgn d) :=
  ⟨_, _, rfl, (wordsAfterCw_of_opRow (r := ⟨0x02, .xsgl, "XSGL", 1, 0x08000000, 0xFDFFFFFF⟩)
    (by rw [cwOp_cw]; rfl)).symm, by simp⟩

theorem xdbl (sgn : Bool) (hi lo : Desc) : Statement (.xdbl sgn hi lo) :=
  ⟨_, _, rfl, (wordsAfterCw_of_opRow (r := ⟨0x03, .xdbl, "XDBL", 2, 0x0C000000, 0xFDFFFFFF⟩)
    (by rw [cwOp_cw]; rfl)).symm, by simp⟩

theorem sext (width : Word) : Statement (.sext width) :=
  ⟨_, _, rfl, (wordsAfterCw_of_opRow (r := ⟨0x04, .sext, "SEXT", 0, 0x10000000, 0xFFFF0000⟩)
    (by rw [cwOp_cw]; rfl)).symm, by simp⟩

theorem scdiv (exp : BitVec 6) : Statement (.scdiv exp) :=
  ⟨_, _, rfl, (wordsAfterCw_of_opRow (r := ⟨0x05, .scdiv, "SCDIV", 0, 0x14000000, 0xFE07FFFF⟩)
    (by rw [cwOp_cw]; rfl)).symm, by simp⟩

theorem scmul (exp : BitVec 6) : Statement (.scmul exp) :=
  ⟨_, _, rfl, (wordsAfterCw_of_opRow (r := ⟨0x06, .scmul, "SCMUL", 0, 0x18000000, 0xFE07FFFF⟩)
    (by rw [cwOp_cw]; rfl)).symm, by simp⟩

theorem ldx (n : Word32) : Statement (.ldx n) :=
  ⟨_, _, rfl, (wordsAfterCw_of_opRow (r := ⟨0x07, .ldx, "LDX", 1, 0x1C000000, 0xFFFFFFFF⟩)
    (by rw [cwOp_cw]; rfl)).symm, by simp⟩

theorem eccw (w : Word) : Statement (.eccw w) :=
  ⟨_, _, rfl, (wordsAfterCw_of_opRow (r := ⟨0x08, .eccw, "ECCW", 0, 0x20000000, 0xFFFF0000⟩)
    (by rw [cwOp_cw]; rfl)).symm, by simp⟩

theorem eccs : Statement .eccs := ⟨_, _, rfl, by decide, by decide⟩
theorem calx : Statement .calx := ⟨_, _, rfl, by decide, by decide⟩
theorem eeld : Statement .eeld := ⟨_, _, rfl, by decide, by decide⟩
theorem frd : Statement .frd := ⟨_, _, rfl, by decide, by decide⟩
theorem amb : Statement .amb := ⟨_, _, rfl, by decide, by decide⟩

theorem calcto (eps tr : F32) : Statement (.calcto eps tr) :=
  ⟨_, _, rfl, (wordsAfterCw_of_opRow (r := ⟨0x12, .calcto, "CALCTO", 2, 0x48000000, 0xFFFFFFFF⟩)
    (by rw [cwOp_cw]; rfl)).symm, by simp⟩

theorem bpfix : Statement .bpfix := ⟨_, _, rfl, by decide, by decide⟩
theorem init : Statement .init := ⟨_, _, rfl, by decide, by decide⟩
theorem rdframe : Statement .rdframe := ⟨_, _, rfl, by decide, by decide⟩
theorem calct : Statement .calct := ⟨_, _, rfl, by decide, by decide⟩

theorem gett (index : Word) : Statement (.gett index) :=
  ⟨_, _, rfl, (wordsAfterCw_of_opRow (r := ⟨0x1B, .gett, "GETT", 0, 0x6C000000, 0xFFFF0000⟩)
    (by rw [cwOp_cw]; rfl)).symm, by simp⟩

theorem getamb : Statement .getamb := ⟨_, _, rfl, by decide, by decide⟩

end Sys2Proof.Laws.EncodedLength
end

