-- ==== Sys2Proof/Tests/Slice0.lean ====
section
/-! SUPPORT. The model's own tests. Expected values come from the spec: the opcode map R100, the worked encodings R107, the
vectors of 95_test_vectors (named in each docstring), or hand calculation from the rule named. Then, for every statement
with hypotheses, a witness that they can be met together. -/

namespace Sys2Proof.Tests

open Machine

/-! ## WellFormed: each check refuses an ill-formed term -/

theorem test_wf_width_zero : (Instr.xraw ⟨0, 0, 0x2427⟩).wf = false := by decide
theorem test_wf_width_33 : (Instr.xsgl true ⟨33, 0, 0x2427⟩).wf = false := by decide
theorem test_wf_dual_hi : (Instr.xdbl false ⟨0, 0, 0x2427⟩ ⟨5, 0, 0x2428⟩).wf = false := by decide
theorem test_wf_dual_lo : (Instr.xdbl false ⟨11, 0, 0x2427⟩ ⟨63, 0, 0x2428⟩).wf = false := by decide
theorem test_wf_sext_zero : (Instr.sext 0).wf = false := by decide
theorem test_wf_sext_33 : (Instr.sext 33).wf = false := by decide
theorem test_wf_scmul_32 : (Instr.scmul 32).wf = false := by decide
theorem test_wf_accepts :
    (Instr.xraw ⟨32, 15, 0⟩).wf = true ∧ (Instr.sext 32).wf = true ∧ (Instr.scmul 31).wf = true
      ∧ (Instr.scdiv 63).wf = true := by decide

/-! ## Decode: every constructor from a word written out from R91 to R93 and R100 -/

/-- B1's words. -/
theorem test_decode_xraw : decode [0x04000000, 0x00742427] = .ok (.xraw ⟨7, 4, 0x2427⟩) := by decide
/-- R107; S = 0 is CW 0x08000000. -/
theorem test_decode_xsgl : decode [0x0A000000, 0x00B02427] = .ok (.xsgl true ⟨11, 0, 0x2427⟩) := by decide
theorem test_decode_xsgl_unsigned : decode [0x08000000, 0x00292433] = .ok (.xsgl false ⟨2, 9, 0x2433⟩) := by decide
/-- R107. -/
theorem test_decode_xdbl :
    decode [0x0E000000, 0x00B02411, 0x00502412] = .ok (.xdbl true ⟨11, 0, 0x2411⟩ ⟨5, 0, 0x2412⟩) := by decide
theorem test_decode_sext : decode [0x1000000B] = .ok (.sext 11) := by decide
/-- 0x14000000 | 12 << 19 (P2). -/
theorem test_decode_scdiv : decode [0x14600000] = .ok (.scdiv 12) := by decide
theorem test_decode_scmul : decode [0x18280000] = .ok (.scmul 5) := by decide
theorem test_decode_ldx : decode [0x1C000000, 0x00000005] = .ok (.ldx 5) := by decide
theorem test_decode_eccw : decode [0x2000D155] = .ok (.eccw 0xD155) := by decide
theorem test_decode_eccs : decode [0x24000000] = .ok .eccs := by decide
theorem test_decode_calx : decode [0x28000000] = .ok .calx := by decide
theorem test_decode_eeld : decode [0x2C000000] = .ok .eeld := by decide
theorem test_decode_frd : decode [0x40000000] = .ok .frd := by decide
theorem test_decode_amb : decode [0x44000000] = .ok .amb := by decide
theorem test_decode_calcto :
    decode [0x48000000, 0x3F733333, 0x41BC0000] = .ok (.calcto 0x3F733333 0x41BC0000) := by decide
theorem test_decode_bpfix : decode [0x4C000000] = .ok .bpfix := by decide
theorem test_decode_init : decode [0x60000000] = .ok .init := by decide
theorem test_decode_rdframe : decode [0x64000000] = .ok .rdframe := by decide
theorem test_decode_calct : decode [0x68000000] = .ok .calct := by decide
theorem test_decode_gett : decode [0x6C0000BF] = .ok (.gett 191) := by decide
theorem test_decode_getamb : decode [0x70000000] = .ok .getamb := by decide

/-- X7: OP 0, OP 0x0C, OP 0x1D and the all-ones word. -/
theorem test_decode_no_opcode :
    [0x00000000, 0x30000000, 0x74000000, 0xFFFFFFFF].map (fun c => decode [c])
      = List.replicate 4 (.error .unknownOpcode) := by decide
/-- X8 and B17: a bit set in an unused field. -/
theorem test_decode_unused_field :
    [0x24000001, 0x14000001, 0x12000000].map (fun c => decode [c]) = List.replicate 3 (.error .unusedFieldSet)
      ∧ decode [0x04010000, 0x00B02427] = .error .unusedFieldSet
      ∧ decode [0x06000000, 0x00B02427] = .error .unusedFieldSet := by decide
/-- B18, R103: one word too few, one too many; an empty transaction (log 15). -/
theorem test_decode_word_count :
    decode [0x04000000] = .error .wrongWordCount
      ∧ decode [0x04000000, 0x00B02427, 0] = .error .wrongWordCount
      ∧ decode [0x24000000, 0] = .error .wrongWordCount ∧ decode [] = .error .emptyTransaction := by decide
/-- R96: FDW[31:26] = 1. -/
theorem test_decode_reserved_bits : decode [0x04000000, 0x04B02427] = .error .reservedDescriptorBits := by decide

/-- No word of any row's match is another row's: the map is unambiguous (R100). -/
theorem test_rows_do_not_overlap :
    opTable.Pairwise (fun a b => a.pattern &&& b.mask ≠ b.pattern ∧ b.pattern &&& a.mask ≠ a.pattern
      ∧ a.code ≠ b.code ∧ a.mnemonic ≠ b.mnemonic) := by decide +kernel
/-- The rows' match values are their opcodes, shifted (R91). -/
theorem test_rows_match_opcode : ∀ r ∈ opTable, r.pattern = r.code.setWidth 32 <<< 26 := by decide
theorem test_table_word : decodeTableWord 32 0x6C0000BF = some (.gett 191) := by decide
/-- Operand words of zeros: a descriptor of width 0, which the meaning refuses (R96). -/
theorem test_table_word_zero_operand : decodeTableWord 32 0x04000000 = some (.xraw ⟨0, 0, 0⟩) := by decide

/-! ## One step on a small state -/

/-- The state a step answers with. -/
def after (o : Host.Outcome State Fault Refusal) : Option State :=
  match o with
  | .next s => some s
  | .fault _ => none
  | .refused _ => none

/-- XR and STATUS after a command. -/
def xrAfter (i : Instr) (s : State) : Option (Int × Status) := (after (exec i s)).map fun t => (t.xr.toInt, t.status)

/-- A decoded image with a few of image D's words (95 section 2.0). -/
def decoded : State :=
  { State.reset with
    eeState := .decoded
    ee := [(16, 0x0040), (17, 0x07FC), (18, 0x001C), (39, 0x079C), (51, 0x0410), (831, 0x000B)] }

/-- The same with XR loaded. -/
def loaded (z : Int) : State := { decoded with xr := BitVec.ofInt 64 z }

/-- B1. -/
theorem test_xraw_field : xrAfter (.xraw ⟨7, 4, 0x2427⟩) decoded = some (121, .ok) := by decide +kernel
/-- R123 and P2: the word after the image, 0x2740. -/
theorem test_xraw_above_image :
    (after (exec (.xraw ⟨11, 0, 0x2740⟩) decoded)).map (fun t => (t.status, t.faulted))
      = some (.addressOutOfRange, true) := by decide +kernel
/-- B2. -/
theorem test_xsgl_signed : xrAfter (.xsgl true ⟨11, 0, 0x2427⟩) decoded = some (-100, .ok) := by decide +kernel
/-- B3. -/
theorem test_xsgl_unsigned : xrAfter (.xsgl false ⟨2, 9, 0x2433⟩) decoded = some (2, .ok) := by decide +kernel
/-- offRef of image D: sext_16(0xFF9C). -/
theorem test_xdbl_signed :
    xrAfter (.xdbl true ⟨11, 0, 0x2411⟩ ⟨5, 0, 0x2412⟩) decoded = some (-100, .ok) := by decide +kernel
/-- B10, R127: 17 + 16 bits are too wide, whatever the addresses. -/
theorem test_xdbl_too_wide :
    xrAfter (.xdbl false ⟨17, 0, 0⟩ ⟨16, 0, 0⟩) decoded = some (0, .fieldTooWide) := by decide +kernel
/-- S7: 2047 at width 11. -/
theorem test_sext_negative : xrAfter (.sext 11) (loaded 2047) = some (-1, .ok) := by decide +kernel
/-- R126: XR = 2^w is refused and kept. -/
theorem test_sext_out_of_range : xrAfter (.sext 11) (loaded 2048) = some (2048, .badOperand) := by decide +kernel
/-- S8: −16 / 2^12 = −0.00390625. -/
theorem test_scdiv_exact :
    (after (exec (.scdiv 12) (loaded (-16)))).map (fun t => t.fr) = some (.num 0xBB800000) := by decide +kernel
/-- R130: −1 / 2 is −0.5, not −1. -/
theorem test_scdiv_no_shift :
    (after (exec (.scdiv 1) (loaded (-1)))).map (fun t => t.fr) = some (.num 0xBF000000) := by decide +kernel
/-- S8: −16 × 32. -/
theorem test_scmul_negative : xrAfter (.scmul 5) (loaded (-16)) = some (-512, .ok) := by decide +kernel
/-- R131: 2^62 × 2 does not fit. -/
theorem test_scmul_overflow : xrAfter (.scmul 1) (loaded (2 ^ 62)) = some (2 ^ 62, .badOperand) := by decide +kernel
/-- R95: the operand is not sign-extended. -/
theorem test_ldx_zero_extends : xrAfter (.ldx 0xFFFFFFFF) decoded = some (2 ^ 32 - 1, .ok) := by decide +kernel
/-- H2: bit 0 flipped. -/
theorem test_eccw_corrects : xrAfter (.eccw 0xD154) decoded = some (0x155, .correctedError) := by decide +kernel
/-- H6: bits 0 and 1 flipped; XR is written all the same. -/
theorem test_eccw_detects : xrAfter (.eccw 0xD156) decoded = some (0x156, .uncorrectableError) := by decide +kernel
/-- Word 16 holds ES2's damaged word (syndrome 22), word 3 is below the scan (ES4). -/
theorem test_eccs_corrects :
    (after (exec .eccs { State.reset with eeState := .raw, ee := [(3, 0xFFFF), (16, 0x080F)] })).map
      (fun t => (t.ee.read 3, t.ee.read 16, t.eeState)) = some (0xFFFF, 0x000B, .decoded) := by
  decide +kernel
/-- ES5: a second scan. -/
theorem test_eccs_once : xrAfter .eccs decoded = some (0, .badState) := by decide +kernel

/-- An image in which no pixel is broken (every offPix[0] field is 1) but those listed, DEVSEL's bit is set, and kVdd's row is
image D's. -/
def pixelImage (broken : List Nat) : Memory Word :=
  (10, 0x0040) :: (39, 0x079C) :: ((List.range 192).filter (!broken.contains ·)).map fun p => (64 + p, 1)

/-- S1: kVdd = −100 × 32; ct[3] is fixed. -/
theorem test_calx_kvdd :
    (after (exec .calx { decoded with ee := pixelImage [] })).map (fun t => (t.cal.kVdd, t.cal.ct.read 3, t.calValid))
      = some (.int (-3200), .int 80, true) := by decide +kernel
/-- CX8: the all-zero image fails DEVSEL. -/
theorem test_calx_devsel :
    (after (exec .calx { decoded with ee := [] })).map (fun t => (t.status, t.calValid)) = some (.unusable, false) := by
  decide +kernel
/-- The default parameters with these rows of FDMAP. -/
def withTable (rows : List (RowName × FdRow)) : Config := { Config.standard with fdmap := rows }

/-- R25, R161: a MUL field stays an integer, 64 × 2^(−1) = 32 with word 16's 0x0040, also where the exponent is negative. -/
theorem test_fieldval_negative_exponent :
    fieldVal (withTable [(.tgc, ⟨⟨11, 0, 0x2410⟩, none, true, .mul, .const (-1)⟩)]) decoded.ee 0 .tgc = .int 32 := by
  decide +kernel
/-- Log 18: a row of mode NONE does not evaluate its exponent's row; one of mode MUL does (R162). -/
theorem test_calx_unused_exponent :
    [ScaleMode.none, .mul].map (fun m => valueViolation (withTable
        [(.tgc, ⟨⟨11, 0, 0x2410⟩, none, true, m, .ofRow .ksToScale 0⟩),
          (.ksToScale, ⟨⟨11, 0, 0x2740⟩, none, false, .none, .const 0⟩)]) .tgc)
      = [none, some .addressOutOfRange] := by decide +kernel
/-- 93 G2: ktaAvg and kvAvg are signed, so that 0x7FF in words 21 and 23 reads −1; ktaScale1 and ktaScale2 are not. -/
theorem test_drift_rows_signed :
    [RowName.ktaAvg, .kvAvg, .ktaScale1, .ktaScale2].map
        (fieldInt Config.standard [(21, 0x07FF), (22, 0x07FF), (23, 0x07FF)])
      = [-1, -1, 63, 31] := by decide +kernel
/-- R162: an auxiliary row counts, also one that no exponent names. -/
theorem test_fdmap_auxiliary_row :
    (withTable [(.cpKv, ⟨⟨6, 0, 0x2432⟩, none, true, .none, .const 0⟩),
      (.cpKvScale, ⟨⟨5, 6, 0x2740⟩, none, false, .none, .const 0⟩)]).fdmapWellMade = false := by decide +kernel
/-- R161: aexp has width 5 in all; 5 + 1 bits over two words are not as documented. -/
theorem test_fdmap_aexp_width :
    (withTable [(.aexp 0, ⟨⟨5, 0, 0x2419⟩, some ⟨1, 0, 0x241A⟩, false, .none, .const 0⟩)]).fdmapAsDocumented = false
      ∧ (withTable [(.aexp 0, ⟨⟨4, 0, 0x2419⟩, some ⟨1, 0, 0x241A⟩, false, .none, .const 0⟩)]).fdmapAsDocumented
        = true := by decide +kernel

/-- EL2. -/
theorem test_eeld_error :
    (after (exec .eeld { decoded with script := [.err] })).map (fun t => (t.status, t.eeState, t.reqs))
      = some (.transportError, .empty, [.read 0x33 0x2400 832]) := by decide +kernel
/-- EL4: refused once CAL_VALID = 1, without a request. -/
theorem test_eeld_refused :
    (after (exec .eeld { decoded with calValid := true })).map (fun t => (t.status, t.reqs)) = some (.badState, []) := by
  decide +kernel

/-- Six windows of zeros but for the last word of each, k + 1 in window k. -/
def testWindows : List (List Word) := (List.range 6).map fun k => List.replicate 31 0 ++ [BitVec.ofNat 16 (k + 1)]

/-- A tail window of zeros but for its last word. -/
def testTail : List Word := List.replicate 47 0 ++ [0x00AA]

/-- A transport that answers one pass (T1's shape). -/
def onePassScript (st st' ctrl : Word) : List BusAnswer :=
  .ok [st] :: .ok [] :: testWindows.map .ok ++ .ok testTail :: .ok [st'] :: .ok [ctrl] :: []

/-- T1: eleven requests, CSR3 = 0x0C40, the trailer at 832 and 833. -/
theorem test_frd_one_pass :
    (after (exec .frd { State.reset with script := onePassScript 8 0 0x0900 })).map
      (fun t => (t.status, t.csr3Port, t.reqs.length, t.fb.read 191, t.fb.read 239, t.fb.read 832))
      = some (.ok, 0x0C40, 11, 6, 0x00AA, 0x0900) := by decide +kernel
/-- T2: five failed polls, CSR3 = 0x0028. -/
theorem test_frd_five_polls :
    (after (exec .frd { State.reset with script := List.replicate 6 (.ok [0]) })).map
      (fun t => (t.status, t.csr3Port, t.reqs.length)) = some (.frameTimeout, 0x0028, 5) := by decide +kernel

/-- The supply and temperature fields of CX1 (95 section 2.3). -/
def calibrated : State :=
  { decoded with
    calValid := true
    cal := { calAtReset with
      kVdd := .int (-3200), vdd25 := .int (-12800), kvPTAT := .flt (.num 0x3BB00000)
      ktPTAT := .flt (.num 0x42298000), vPTAT25 := .int 12196, alphaPTAT := .flt (.num 0x41100000)
      gainEE := .int 9972, tgc := .flt (.num 0x3E800000), ksTa := .flt (.num 0xBA200000), resolutionEE := .int 2
      cpAlpha := .flt (.num 0x31898000), cpOffset := .int (-70), cpKv := .flt (.num 0x3E800000)
      cpKta := .flt (.num 0x3B200000)
      ksTo := [(0, .flt (.num 0xB9F00000)), (1, .flt (.num 0xBA020000)), (2, .flt (.num 0xBA0C0000))]
      ct := [(0, .int (-40)), (1, .int (-20)), (3, .int 80), (4, .int 120), (5, .int 200), (6, .int 400),
        (7, .int 600)]
      alpha := [(0, .num 0x35A4E01C)], offset0 := [(0, -200)], kta := [(0, .num 0x3BB40000)]
      kv := [(0, .num 0x3D780000)], broken0 := 0xFFFF, broken1 := 0xFFFF } }

/-- Frame F's pixel 0 and auxiliary words after T1 (95 section 2.0). -/
def framed : State :=
  { calibrated with
    fbValid := true
    fb := [(0, 0xFF6A), (192, 0x470E), (200, 0xFFC4), (202, 0x2648), (224, 0x05DC), (234, 0xCE40), (832, 0x0900)] }

/-- 95 section 2.5: TA in binary32. -/
theorem test_amb_value :
    (after (exec .amb framed)).map (fun t => (t.ta, t.taValid)) = some (.num 0x41F05054, true) := by decide +kernel
/-- AM2: resram enters through rescorr alone. -/
theorem test_amb_resolution :
    (after (exec .amb { framed with fb := framed.fb.write 832 0x0D00 })).map (fun t => t.ta)
      = some (.num 0x4204D067) := by decide +kernel
/-- CT1, pixel 0. -/
theorem test_calcto_pixel :
    (after (exec (.calcto 0x3F733333 0x41BC0000) framed)).map (fun t => (t.tf.read 0, t.tfValid))
      = some (.num 0x41F62570, true) := by decide +kernel
/-- AM3's refusal, for CALCTO. -/
theorem test_calcto_refused : xrAfter (.calcto 0 0) calibrated = some (0, .badState) := by decide +kernel

/-- A frame with the first row of section 2.7: 10, 12, 15, 19, 24, 30, 37, 45 in columns 0..7. -/
def repairable (b0 b1 : Int) : State :=
  { calibrated with
    tfValid := true
    cal := { calibrated.cal with broken0 := b0, broken1 := b1 }
    tf := [(0, .num 0x41200000), (1, .num 0x41400000), (2, .num 0x41700000), (3, .num 0x41980000),
      (4, .num 0x41C00000), (5, .num 0x41F00000), (6, .num 0x42140000), (7, .num 0x42340000),
      (8, .num 0x42580000)] }

/-- BP1: column 0 copies column 1. -/
theorem test_bpfix_edge :
    (after (exec .bpfix (repairable 0 0xFFFF))).map (fun t => t.tf.read 0) = some (.num 0x41400000) := by
  decide +kernel
/-- BP11: 29, then 34 from the repaired neighbour. -/
theorem test_bpfix_neighbours :
    (after (exec .bpfix (repairable 5 6))).map (fun t => (t.tf.read 5, t.tf.read 6))
      = some (.num 0x41E80000, .num 0x42080000) := by decide +kernel

/-- An image of valid words that no pixel of which is broken (H10: 0xFFFF is valid and decodes to 0x07FF). -/
def validDump : List Word := List.replicate 832 0xFFFF

/-- The answers of P4's shape: init, the dump, two RMW steps. -/
def initScript : List BusAnswer := .ok [] :: .ok validDump :: Spec.cfgAnswers [0x0901, 0x0901]

/-- R263: a failed dump; no later request. -/
theorem test_init_failed_dump :
    (after (exec .init { State.reset with script := [.ok [], .err] })).map
      (fun t => (t.status, t.eeState, t.inited, t.reqs.length)) = some (.transportError, .empty, false, 2) := by
  decide +kernel
/-- R268: FB_VALID and TA_VALID after one pass. -/
theorem test_rdframe_succeeds :
    (after (exec .rdframe { calibrated with script := onePassScript 8 0 0x0900 })).map
      (fun t => (t.status, t.fbValid, t.taValid)) = some (.ok, true, true) := by decide +kernel
/-- X15: TA is left as it was. -/
theorem test_rdframe_fails :
    (after (exec .rdframe { calibrated with script := [.err], ta := .num 7, taValid := true })).map
      (fun t => (t.status, t.ta, t.taValid, t.fbValid)) = some (.transportError, .num 7, true, false) := by
  decide +kernel
/-- X12: TA_VALID = 0. -/
theorem test_calct_refused : xrAfter .calct framed = some (0, .badState) := by decide +kernel
/-- R270: CALCTO and BPFIX run; TA is computed anew. -/
theorem test_calct_runs :
    (after (exec .calct { framed with ta := .num 0x41F05054, taValid := true })).map
      (fun t => (t.status, t.tfValid, t.ta)) = some (.ok, true, .num 0x41F05054) := by decide +kernel
/-- X4's shape. -/
theorem test_gett_reads :
    (after (exec (.gett 5) (repairable 0 0xFFFF))).map (fun t => t.fr) = some (.num 0x41F00000) := by decide +kernel
/-- X2 and X3: the flag first, then the index. -/
theorem test_gett_order :
    xrAfter (.gett 192) calibrated = some (0, .badState)
      ∧ xrAfter (.gett 192) (repairable 0 0xFFFF) = some (0, .badOperand) := by decide +kernel
theorem test_getamb_reads :
    (after (exec .getamb { framed with ta := .num 0x41F05054, taValid := true })).map (fun t => t.fr)
      = some (.num 0x41F05054) := by decide +kernel
/-- X13: Halted before decoding. -/
theorem test_step_halted :
    (after (step ({ State.reset with faulted := true }.withTransaction [0]))).map (fun t => t.status)
      = some .halted := by decide +kernel
/-- The first instruction after reset, from its table row. -/
theorem test_step_first :
    (after (step (State.reset.withFetchWord 32 0x18280000))).map (fun t => t.status) = some .ok := by decide +kernel
/-- The default parameters agree (R330). -/
theorem test_standard_config_wf : Config.standard.wf = true := by decide +kernel

/-! ## Witnesses: the hypotheses of every statement can be met together -/

/-- A state whose next act is this transaction. -/
def offering (ws : List Word32) : State := { decoded with cmds := [.transaction ws, .reset] }

theorem witness_EncodeOfDecode : ∃ i, decode [0x0E000000, 0x00B02411, 0x00502412] = .ok i := ⟨_, test_decode_xdbl⟩

/-- OP outside the map; a bit set in an unused field; a word too few; WIDTH 0, WIDTH 33, and a bit of FDW[31:26]. -/
theorem witness_IllegalWordsRefused :
    (offering [0x30000000]).faulted = false ∧ (offering [0x30000000]).cmds = [.transaction [0x30000000], .reset]
      ∧ Spec.formsNoCommand 0x30000000 [] ∧ Spec.formsNoCommand 0x24000001 []
      ∧ Spec.formsNoCommand 0x04000000 []
      ∧ Spec.formsNoCommand 0x04000000 [0x00002427] ∧ Spec.formsNoCommand 0x04000000 [0x02102427]
      ∧ Spec.formsNoCommand 0x0C000000 [0x00B02411, 0x04B02427] := by
  refine ⟨rfl, rfl, .inl ?_, .inl ?_, .inr (.inl ⟨(0x04000000, 0xFFFFFFFF, 1), ?_, ?_, ?_⟩),
    .inr (.inr ⟨?_, ?_, 0x00002427, ?_, .inr (.inl ?_)⟩), .inr (.inr ⟨?_, ?_, 0x02102427, ?_, .inr (.inr ?_)⟩),
    .inr (.inr ⟨?_, ?_, 0x04B02427, ?_, .inl ?_⟩)⟩ <;> decide

theorem witness_StepRunsDecodedCommand :
    (offering [0x24000000]).cmds = .transaction [0x24000000] :: [.reset] ∧ decode [0x24000000] = .ok .eccs
      ∧ decodeTableWord 32 0x6C0000BF = some (.gett 191) :=
  ⟨rfl, test_decode_eccs, test_table_word⟩

theorem witness_FaultedBlockIsHalted :
    { offering [0xFFFFFFFF] with faulted := true }.faulted = true
      ∧ { offering [0xFFFFFFFF] with faulted := true }.cmds = .transaction [0xFFFFFFFF] :: [.reset] := ⟨rfl, rfl⟩

/-- A command that ends with a contract violation and one that does not. -/
theorem witness_FaultFollowsContractViolation :
    (∃ t, exec (.xraw ⟨11, 0, 0x2740⟩) decoded = .next t ∧ t.status = .addressOutOfRange)
      ∧ ∃ t, exec (.ldx 5) decoded = .next t ∧ t.status = .ok := by
  refine ⟨⟨_, rfl, ?_⟩, ⟨_, rfl, ?_⟩⟩ <;> decide +kernel

/-- Each of the four refusals, where two checks fail the earlier one, and no refusal. -/
theorem witness_RefusalsInOrder :
    Spec.refusedWith (.xraw ⟨0, 0, 0⟩) { State.reset with faulted := true } .halted
      ∧ Spec.refusedWith (.xraw ⟨0, 0, 0⟩) State.reset .illegalCommand
      ∧ Spec.refusedWith (.gett 192) State.reset .badState
      ∧ Spec.refusedWith (.gett 192) { State.reset with tfValid := true } .badOperand
      ∧ ∀ x, ¬ Spec.refusedWith (.gett 191) { State.reset with tfValid := true } x := by
  refine ⟨.inl ⟨rfl, rfl⟩, .inr (.inl ⟨rfl, rfl, rfl⟩), .inr (.inr (.inl ⟨rfl, rfl, ?_, rfl⟩)),
    .inr (.inr (.inr ⟨rfl, rfl, rfl, ?_, rfl⟩)), fun x hx => ?_⟩
  · exact Bool.false_ne_true
  · show 191 < (192 : Word).toNat
    decide
  · rcases hx with ⟨h, -⟩ | ⟨-, h, -⟩ | ⟨-, -, h, -⟩ | ⟨-, -, -, h, -⟩
    · cases h
    · cases h
    · exact h rfl
    · exact absurd (show 191 < (191 : Word).toNat from h) (by decide)

theorem witness_StatusesByCommand :
    ∃ t, exec (.sext 11) (loaded 2048) = .next t ∧ t.status = .badOperand := ⟨_, rfl, by decide +kernel⟩

/-- Widths 0, 1, 32 and 33; the addresses next to the image's ends. -/
theorem witness_XrawExtractsRawField :
    decoded.faulted = false ∧ decoded.eeState = .decoded ∧ State.reset.eeState = .empty
      ∧ ¬ Spec.wellFormed ⟨0, 0, 0x2400⟩ ∧ ¬ Spec.wellFormed ⟨33, 0, 0x2400⟩
      ∧ Spec.wellFormed ⟨1, 0, 0x23FF⟩ ∧ Spec.outOfImage decoded.cfg 0x23FF ∧ Spec.outOfImage decoded.cfg 0x2740
      ∧ Spec.wellFormed ⟨32, 15, 0x273F⟩ ∧ ¬ Spec.outOfImage decoded.cfg 0x2400
      ∧ ¬ Spec.outOfImage decoded.cfg 0x273F := by
  unfold Spec.wellFormed Spec.outOfImage
  decide +kernel

theorem witness_XsglExtractsSingleField :
    decoded.faulted = false ∧ (decoded.eeState = .raw ∨ decoded.eeState = .decoded)
      ∧ Spec.wellFormed ⟨11, 0, 0x2740⟩ ∧ Spec.outOfImage decoded.cfg 0x2740
      ∧ Spec.wellFormed ⟨11, 0, 0x2427⟩ ∧ ¬ Spec.outOfImage decoded.cfg 0x2427 := by
  unfold Spec.wellFormed Spec.outOfImage
  decide +kernel

/-- Combined widths 32 and 33; an address outside the image in hi, in lo, in neither. -/
theorem witness_XdblExtractsDualField :
    decoded.faulted = false ∧ (decoded.eeState = .raw ∨ decoded.eeState = .decoded)
      ∧ Spec.wellFormed ⟨17, 0, 0x2411⟩ ∧ Spec.wellFormed ⟨15, 0, 0x2412⟩ ∧ Spec.wellFormed ⟨16, 0, 0x2412⟩
      ∧ (32 < (17 : BitVec 6).toNat + (16 : BitVec 6).toNat) ∧ ¬ 32 < (17 : BitVec 6).toNat + (15 : BitVec 6).toNat
      ∧ Spec.outOfImage decoded.cfg 0x23FF ∧ ¬ Spec.outOfImage decoded.cfg 0x2411
      ∧ ¬ Spec.outOfImage decoded.cfg 0x2412 := by
  unfold Spec.wellFormed Spec.outOfImage
  decide +kernel

theorem witness_FieldValuesFit :
    Spec.wellFormed ⟨17, 0, 0x2411⟩ ∧ Spec.wellFormed ⟨15, 3, 0x2412⟩
      ∧ (17 : BitVec 6).toNat + (15 : BitVec 6).toNat ≤ 32
      ∧ Spec.extracts (.xsgl true ⟨11, 0, 0x2427⟩)
      ∧ ∃ t, exec (.xsgl true ⟨11, 0, 0x2427⟩) decoded = .next t ∧ t.status = .ok := by
  refine ⟨?_, ?_, by decide, trivial, _, rfl, by decide +kernel⟩ <;> unfold Spec.wellFormed <;> decide

/-- Widths 0, 1, 32, 33; XR = 2^w − 1, 2^w and −1. -/
theorem witness_SextExtendsXr :
    decoded.faulted = false ∧ ¬ 1 ≤ (0 : Word).toNat ∧ (1 ≤ (1 : Word).toNat ∧ (1 : Word).toNat ≤ 32)
      ∧ (1 ≤ (32 : Word).toNat ∧ (32 : Word).toNat ≤ 32) ∧ ¬ (33 : Word).toNat ≤ 32
      ∧ (0 ≤ (loaded 2047).xr.toInt ∧ (loaded 2047).xr.toInt < 2 ^ (11 : Word).toNat)
      ∧ ¬ (loaded 2048).xr.toInt < 2 ^ (11 : Word).toNat ∧ ¬ 0 ≤ (loaded (-1)).xr.toInt := by
  decide +kernel

/-- XR just below the bound of an exact quotient, and at it. -/
theorem witness_ScdivDividesXr :
    (loaded (1 - 2 ^ 24)).faulted = false ∧ (loaded (1 - 2 ^ 24)).cfg.num = .binary32
      ∧ (loaded (1 - 2 ^ 24)).xr.toInt.natAbs < 2 ^ 24
      ∧ ¬ (loaded (2 ^ 24)).xr.toInt.natAbs < 2 ^ 24 := by
  decide +kernel

/-- Exponents 31 and 32; products at both ends of XR and just above. -/
theorem witness_ScmulMultipliesXr :
    decoded.faulted = false ∧ (31 : BitVec 6).toNat ≤ 31 ∧ ¬ (32 : BitVec 6).toNat ≤ 31
      ∧ -(2 ^ 63) ≤ (loaded (-(2 ^ 62))).xr.toInt * 2 ^ (1 : BitVec 6).toNat
      ∧ (loaded (2 ^ 62 - 1)).xr.toInt * 2 ^ (1 : BitVec 6).toNat < 2 ^ 63
      ∧ ¬ (loaded (2 ^ 62)).xr.toInt * 2 ^ (1 : BitVec 6).toNat < 2 ^ 63 := by
  decide +kernel

theorem witness_LdxLoadsXr : decoded.faulted = false := rfl

/-- 2^24 + 1 is an exact tie, rounded down to the even 2^24; the greatest ratio with a finite value and the least without;
finite operands of either sign, a zero, and a negative one whose root is not a number; exponents at both ends. -/
theorem witness_RoundsToNearestEven :
    F32.ofRatio false ((2 ^ 24 + 1) * 2 ^ 149) 1 = .num 0x4B800000
      ∧ F32.ofRatio false ((2 ^ 25 - 1) * 2 ^ 252 - 1) 1 = .num 0x7F7FFFFF
      ∧ F32.ofRatio true ((2 ^ 25 - 1) * 2 ^ 252) 1 = .unspecified
      ∧ F32.finite 0x3F800000 = true ∧ F32.finite 0xBF800000 = true ∧ F32.neg 0xBF800000 = true
      ∧ F32.mag 0xBF800000 ≠ 0 ∧ F32.mag 0x80000000 = 0 ∧ F32.sqrt 0x41800000 = .num 0x40800000
      ∧ pow2 .binary32 (-149) = .num 1 ∧ pow2 .binary32 (-150) = .num 0
      ∧ pow2 .binary32 127 = .num 0x7F000000 ∧ pow2 .binary32 128 = .unspecified := by
  decide +kernel

/-- A word whose syndrome is 0, and positions with one syndrome only if they are equal. -/
theorem witness_OneFlipCorrectedTwoDetected :
    Spec.syn Config.standard 0xD155 = 0
      ∧ ∀ i < 16, ∀ j < 16, Config.standard.synOf i = Config.standard.synOf j → i = j := by
  decide +kernel

theorem witness_EccwDecodesWord : decoded.faulted = false ∧ decoded.cfg.synInjective = true := by decide +kernel

theorem witness_EccsScansImage :
    { decoded with eeState := .raw }.faulted = false ∧ { decoded with eeState := .raw }.cfg.synInjective = true
      ∧ decoded.ee.wf = true ∧ decoded.ee.below 832 = true ∧ { decoded with eeState := .raw }.eeState = .raw := by
  decide +kernel

/-! ### The calibration -/

/-- A list of pixels the model finds broken lists the broken pixels. -/
theorem listsBroken_of_eq {c : Config} {ee : Memory Word} {L : List Nat} (h : brokenList c ee = L) :
    Spec.listsBroken c ee L := by
  subst h
  unfold Spec.listsBroken brokenList
  refine ⟨List.pairwise_lt_range.sublist List.filter_sublist, fun p => ?_⟩
  have hraw : ∀ d, rawField c ee d = Spec.raw c ee d := by
    intro d
    simp [rawField, Spec.raw, imageIndex, Nat.shiftRight_eq_div_pow, Nat.and_two_pow_sub_one_eq_mod]
  simp [Spec.isBroken, broken, hraw, Config.npix, and_assoc]

/-- The rows CALX reads by fieldval, and those it reads by fieldint. -/
theorem mem_valueRows {n : RowName} (h : Spec.readByFieldval n) : n ∈ valueRows := by
  cases n <;> simp only [Spec.readByFieldval] at h <;> simp [valueRows, scalarRows]
  all_goals omega

theorem mem_fieldRows {n : RowName} (h : Spec.readByFieldint n) : n ∈ fieldRows := by
  cases n <;> simp only [Spec.readByFieldint] at h <;> simp [fieldRows, Config.npix]
  case offPix b q => cases b <;> simp [h]
  all_goals exact h

/-- Rows that the model evaluates without a violation do not break the contract. -/
theorem not_rowFails {c : Config} (hv : ∀ n ∈ valueRows, valueViolation c n = none)
    (hf : ∀ n ∈ fieldRows, fieldViolation c n = none) (n : RowName) : ¬ Spec.rowFails c n := by
  have hin : ∀ a, Spec.outOfImage c a → c.inImage a = false := by
    intro a ha
    unfold Spec.outOfImage at ha
    simp only [Config.inImage, Bool.and_eq_false_iff, decide_eq_false_iff_not]
    omega
  have hr : ∀ r, Spec.rowViolates c r → rowViolation c r ≠ none := by
    rintro ⟨hi, lo, sgn, mode, exp⟩ hr
    cases lo with
    | none =>
      have ha : Spec.outOfImage c hi.addr := hr
      show (if c.inImage hi.addr then none else some Status.addressOutOfRange) ≠ none
      rw [hin _ ha]
      exact Option.some_ne_none _
    | some lo =>
      have ha : 32 < hi.width.toNat + lo.width.toNat ∨ Spec.outOfImage c hi.addr ∨ Spec.outOfImage c lo.addr := hr
      show (if 32 < hi.width.toNat + lo.width.toNat then some Status.fieldTooWide
        else (if c.inImage hi.addr then none else some Status.addressOutOfRange).or
          (if c.inImage lo.addr then none else some Status.addressOutOfRange)) ≠ none
      by_cases hw : 32 < hi.width.toNat + lo.width.toNat
      · rw [if_pos hw]
        exact Option.some_ne_none _
      · rw [if_neg hw]
        rcases ha with h1 | h1 | h1
        · exact absurd h1 hw
        · rw [hin _ h1]
          exact Option.some_ne_none _
        · rw [hin _ h1]
          cases c.inImage hi.addr <;> exact Option.some_ne_none _
  rintro (⟨hn | hn, hx⟩ | ⟨hn, hm, m, bias, he, hx⟩)
  · have h := hv n (mem_valueRows hn)
    unfold valueViolation at h
    exact hr _ hx (Option.or_eq_none_iff.1 h).1
  · exact hr _ hx (hf n (mem_fieldRows hn))
  · have h := hv n (mem_valueRows hn)
    unfold valueViolation at h
    have h2 := (Option.or_eq_none_iff.1 h).2
    cases hmode : (c.row n).mode with
    | none => exact hm hmode
    | mul =>
      simp only [hmode, FdRow.expRow, he, Option.bind_some] at h2
      exact hr _ hx h2
    | div =>
      simp only [hmode, FdRow.expRow, he, Option.bind_some] at h2
      exact hr _ hx h2

/-- A state that CALX accepts, with these pixels broken. -/
def extractable (pixels : List Nat) : State := { decoded with ee := pixelImage pixels }

theorem extractable_broken :
    brokenList Config.standard (pixelImage []) = [] ∧ brokenList Config.standard (pixelImage [7]) = [7]
      ∧ brokenList Config.standard (pixelImage [0, 191]) = [0, 191] := by
  decide +kernel

theorem table_unviolated : tableViolation Config.standard = none := by decide +kernel

/-- Where at most two pixels are broken CALX commits. -/
theorem extractable_commits {pixels : List Nat} (h : brokenList Config.standard (pixelImage pixels) = pixels)
    (hl : pixels.length ≤ 2) : ∃ t, exec .calx (extractable pixels) = .next t ∧ t.status = .ok := by
  have hf : calxFailure (extractable pixels).cfg (extractable pixels).ee = none := by
    show calxFailure Config.standard (pixelImage pixels) = none
    unfold calxFailure
    rw [table_unviolated, h, show devSelected Config.standard (pixelImage pixels) = true from by
      simp [devSelected, Config.standard, pixelImage, Memory.read]]
    simp [hl]
  refine ⟨(extractable pixels).commitCal, ?_, rfl⟩
  show Host.Outcome.next (State.command _ true _ _) = _
  rw [show (extractable pixels).mayExtract = true from rfl, State.command_pass rfl]
  rcases State.extract_cases (extractable pixels) with ⟨x, hx, -⟩ | ⟨-, he⟩
  · rw [hf] at hx
    cases hx
  · rw [he]

theorem witness_CalxCommitsCalibration :
    Spec.calxAccepted (extractable [0, 191])
      ∧ devSelected (extractable [0, 191]).cfg (extractable [0, 191]).ee = true
      ∧ (extractable [0, 191]).cfg.fdmapWellMade = true
      ∧ Spec.listsBroken (extractable [0, 191]).cfg (extractable [0, 191]).ee [0, 191] ∧ [0, 191].length ≤ 2 := by
  refine ⟨?_, ?_, ?_, listsBroken_of_eq extractable_broken.2.2, ?_⟩
  · unfold Spec.calxAccepted
    decide +kernel
  all_goals decide +kernel

/-- The exponents the pixel tables share are 0 in these images; a product with a negative exponent may be an integer too. -/
theorem witness_CalxFillsPixelTables :
    (∃ t, exec .calx (extractable [7]) = .next t ∧ t.status = .ok)
      ∧ Spec.scaled (Spec.fieldint Config.standard (pixelImage [7]) (.ktaDelta 0))
          (Spec.fieldint Config.standard (pixelImage [7]) .ktaScale2) 0
      ∧ Spec.scaled (Spec.fieldint Config.standard (pixelImage [7]) (.kvDelta 0))
          (Spec.fieldint Config.standard (pixelImage [7]) .kvScale2) 0
      ∧ Spec.scaled (Spec.fieldint Config.standard (pixelImage [7]) (.offPix false 0))
          (Spec.fieldint Config.standard (pixelImage [7]) .offScale) 1
      ∧ Spec.scaled (Spec.fieldint Config.standard (pixelImage [7]) (.offPix true 0))
          (Spec.fieldint Config.standard (pixelImage [7]) .offScale) 0
      ∧ Spec.scaled 4 (-1) 2 := by
  refine ⟨extractable_commits extractable_broken.2.1 (by decide), ?_, ?_, ?_, ?_, ?_⟩ <;> unfold Spec.scaled <;>
    decide +kernel

/-- No broken pixel, one, two. -/
theorem witness_CalxRecordsBrokenPixels :
    ∀ L, L = [] ∨ L = [7] ∨ L = [0, 191] →
      (∃ t, exec .calx (extractable L) = .next t ∧ t.status = .ok)
        ∧ Spec.listsBroken (extractable L).cfg (extractable L).ee L := by
  rintro L (rfl | rfl | rfl)
  · exact ⟨extractable_commits extractable_broken.1 (by decide), listsBroken_of_eq extractable_broken.1⟩
  · exact ⟨extractable_commits extractable_broken.2.1 (by decide), listsBroken_of_eq extractable_broken.2.1⟩
  · exact ⟨extractable_commits extractable_broken.2.2 (by decide), listsBroken_of_eq extractable_broken.2.2⟩

/-- An image of zeros fails DEVSEL; with DEVSEL's bit set, three of its pixels (all of them) are broken. -/
theorem witness_CalxUnusableImage :
    Spec.calxAccepted { decoded with ee := [] } ∧ devSelected Config.standard [] = false
      ∧ Spec.calxAccepted { decoded with ee := [(10, 0x0040)] } ∧ devSelected Config.standard [(10, 0x0040)] = true
      ∧ Config.standard.fdmapWellMade = true
      ∧ Spec.isBroken Config.standard [(10, 0x0040)] 0 ∧ Spec.isBroken Config.standard [(10, 0x0040)] 1
      ∧ Spec.isBroken Config.standard [(10, 0x0040)] 191 := by
  unfold Spec.calxAccepted Spec.isBroken
  decide +kernel

/-- The state with one row of the table replaced. -/
def withRow (n : RowName) (r : FdRow) : State :=
  { extractable [] with cfg := { Config.standard with fdmap := [(n, r)] } }

/-- A row whose address is outside the image, a dual row of 33 bits, an exponent's row outside the image of a row whose mode
uses it; the same with mode NONE, which evaluates no exponent; and a table without any violation. -/
theorem witness_CalxViolationsAreTheTables :
    Spec.calxAccepted (extractable []) ∧ devSelected (extractable []).cfg (extractable []).ee = true
      ∧ (∃ n, Spec.rowFails (withRow .tgc ⟨⟨11, 0, 0x2740⟩, none, true, .none, .const 0⟩).cfg n)
      ∧ (∃ n, Spec.rowFails (withRow .offRef ⟨⟨17, 0, 0x2411⟩, some ⟨16, 0, 0x2412⟩, true, .none, .const 0⟩).cfg n)
      ∧ (∃ n, Spec.rowFails (withRow .ksToScale ⟨⟨11, 0, 0x23FF⟩, none, true, .none, .const 0⟩).cfg n)
      ∧ ∀ n, ¬ Spec.rowFails (extractable []).cfg n := by
  refine ⟨?_, ?_, ⟨.tgc, .inl ⟨.inl trivial, ?_⟩⟩, ⟨.offRef, .inl ⟨.inr trivial, ?_⟩⟩,
    ⟨.ksTo 0, .inr ⟨?_, ?_, .ksToScale, 0, ?_, ?_⟩⟩, not_rowFails ?_ ?_⟩
  · unfold Spec.calxAccepted
    decide +kernel
  · decide +kernel
  · show Spec.outOfImage _ _
    unfold Spec.outOfImage
    decide +kernel
  · show 32 < _ ∨ _
    exact .inl (by decide +kernel)
  · show 0 < 8
    decide
  · decide +kernel
  · decide +kernel
  · show Spec.outOfImage _ _
    unfold Spec.outOfImage
    decide +kernel
  · decide +kernel
  · decide +kernel

/-! ### The frame reader -/

/-- A transport that answers the one request with err, and one that answers with a whole dump. -/
theorem witness_EeldCapturesImage :
    decoded.faulted = false ∧ decoded.calValid = false ∧ calibrated.calValid = true
      ∧ { decoded with script := [.err] }.wordsAnswered 832 = none
      ∧ ∃ ws, { decoded with script := [.ok validDump] }.wordsAnswered 832 = some ws :=
  ⟨rfl, rfl, rfl, rfl, _, rfl⟩

theorem witness_FrdAlwaysEnds : State.reset.faulted = false := rfl

theorem witness_FrdIsTheSummary : State.reset.faulted = false := rfl

theorem witness_FrdStopsAfterFivePolls :
    ∃ s : State, s.faulted = false ∧ s.script = [0, 1, 0xFFF7, 4, 0].map (fun w => .ok [w]) ++ [.err]
      ∧ ∀ w ∈ [(0 : Word), 1, 0xFFF7, 4, 0], w &&& s.cfg.rdyMask = 0 :=
  ⟨{ State.reset with script := [0, 1, 0xFFF7, 4, 0].map (fun w => .ok [w]) ++ [.err] }, rfl, rfl, by
    intro w hw
    simp only [List.mem_cons, List.not_mem_nil, or_false] at hw
    rcases hw with rfl | rfl | rfl | rfl | rfl <;> decide +kernel⟩

/-- The state whose transport answers one pass. -/
def receiving : State := { calibrated with script := onePassScript 9 1 0x0900 }

theorem receiving_onePass : Spec.onePass receiving 9 testWindows testTail 1 0x0900 [] where
  script := rfl
  ready := by decide +kernel
  windows := rfl
  windowWords := by decide +kernel
  tailWords := rfl
  notReady := by decide +kernel

theorem witness_FrdStoresFrame :
    receiving.faulted = false ∧ receiving.fb.wf = true
      ∧ Spec.onePass receiving 9 testWindows testTail 1 0x0900 [] := ⟨rfl, rfl, receiving_onePass⟩

/-- Words 240, 831 and 834 are neither of the frame nor of the trailer. -/
theorem witness_FrdWritesOnlyTheFrame :
    ∃ t, receiving.fb.wf = true ∧ exec .frd receiving = .next t ∧ t.status = .ok
      ∧ ∀ i, i = 240 ∨ i = 831 ∨ i = 834 →
        i ≠ receiving.cfg.trailerBase ∧ i ≠ receiving.cfg.trailerBase + 1 := by
  refine ⟨_, rfl, rfl, by decide +kernel, ?_⟩
  rintro i (rfl | rfl | rfl) <;> decide +kernel

/-! ### The compensator -/

theorem witness_AmbComputesAmbient :
    framed.faulted = false ∧ framed.fbValid = true ∧ framed.calValid = true ∧ calibrated.fbValid = false :=
  ⟨rfl, rfl, rfl, rfl⟩

theorem witness_DefaultAmbientFormulas :
    framed.cfg.num = .binary32 ∧ framed.cfg.fVdd = .printed ∧ framed.cfg.fTa = .printed := ⟨rfl, rfl, rfl⟩

theorem witness_DefaultPixelFormulas :
    framed.cfg.num = .binary32 ∧ framed.cfg.fCpOff = .printed ∧ framed.cfg.fPixOff = .printed
      ∧ framed.cfg.fSx = .printed ∧ framed.cfg.fDen2 = .printed := ⟨rfl, rfl, rfl, rfl, rfl⟩

/-- A first-pass temperature on a threshold is in the range above it; one beyond the last is in range 7. -/
theorem witness_isRange :
    Spec.isRange .binary32 framed.cal.ct (i2f .binary32 (-41)) 0 ∧ Spec.isRange .binary32 framed.cal.ct (i2f .binary32 (-20)) 1
      ∧ Spec.isRange .binary32 framed.cal.ct (i2f .binary32 600) 7 := by
  unfold Spec.isRange
  decide +kernel

theorem witness_CalctoComputesTemperatures :
    framed.faulted = false ∧ framed.fbValid = true ∧ framed.calValid = true ∧ calibrated.fbValid = false
      ∧ Spec.isRange .binary32 framed.cal.ct (Spec.to1 framed (.ofBits .binary32 0x3F733333) (.ofBits .binary32 0x41BC0000) 0) 2 := by
  unfold Spec.isRange
  decide +kernel

/-- The same frame with another pixel's word and calibration changed. -/
def elsewhere : State :=
  { framed with
    fb := (1, 0x1234) :: framed.fb
    cal := { framed.cal with alpha := (0, .num 0x35A4E01C) :: [(1, .num 0x35000000)] } }

theorem witness_PixelsAreIndependent :
    framed.faulted = false ∧ elsewhere.faulted = false ∧ framed.fbValid = true ∧ elsewhere.fbValid = true
      ∧ framed.calValid = true ∧ elsewhere.calValid = true ∧ elsewhere.cfg = framed.cfg
      ∧ framed.cfg.fVdd = .printed ∧ framed.cfg.fTa = .printed ∧ framed.cfg.fCpOff = .printed
      ∧ framed.cfg.fPixOff = .printed ∧ framed.cfg.fSx = .printed ∧ framed.cfg.fDen2 = .printed
      ∧ framed.cfg.fAcorr = .printed
      ∧ elsewhere.cal = { framed.cal with
          alpha := elsewhere.cal.alpha, kta := framed.cal.kta, kv := framed.cal.kv
          offset0 := framed.cal.offset0, offset1 := framed.cal.offset1 }
      ∧ elsewhere.cal.alpha.read 0 = framed.cal.alpha.read 0
      ∧ (∀ i, i = 0 ∨ (192 ≤ i ∧ i ≤ 239) ∨ i = framed.cfg.trailerBase ∨ i = framed.cfg.trailerBase + 1 →
          elsewhere.fb.read i = framed.fb.read i)
      ∧ (∃ t, exec (.calcto 0x3F733333 0x41BC0000) framed = .next t)
      ∧ ∃ t, exec (.calcto 0x3F733333 0x41BC0000) elsewhere = .next t := by
  refine ⟨rfl, rfl, rfl, rfl, rfl, rfl, rfl, rfl, rfl, rfl, rfl, rfl, rfl, rfl, rfl, rfl, ?_, ⟨_, rfl⟩, ⟨_, rfl⟩⟩
  intro i hi
  have h1 : i ≠ 1 := by
    have : framed.cfg.trailerBase = 832 := rfl
    omega
  show Memory.read ((1, 0x1234) :: framed.fb) i = _
  rw [Memory.read_cons, if_neg (Ne.symm h1)]

theorem witness_RangeIsLeastAbove :
    (FVal.num 0xC2240000).checked .binary32 ≠ .unspecified ∧ ∀ k, 1 ≤ k → k ≤ 7 → ∃ z, framed.cal.ct.read k = .int z := by
  refine ⟨by decide +kernel, fun k h1 h2 => ?_⟩
  interval_cases k <;> exact ⟨_, rfl⟩

/-- Pixel 0 reads zero, its offset and tgc are zero. -/
def still : State :=
  { framed with fb := framed.fb.write 0 0, cal := { framed.cal with tgc := .int 0, offset0 := [] } }

theorem witness_BaselineTemperature :
    still.cfg.num = .binary32 ∧ still.faulted = false ∧ still.fbValid = true ∧ still.calValid = true
      ∧ (∃ t, exec (.calcto 0x3F733333 0x41BC0000) still = .next t)
      ∧ Spec.ir still (.ofBits .binary32 0x3F733333) 0 = .num 0 ∧ F32.mag 0 = 0
      ∧ Spec.den1 still (.ofBits .binary32 0x3F733333) (.ofBits .binary32 0x41BC0000) 0 = .num 0x35A1E484 ∧ F32.mag 0x35A1E484 ≠ 0
      ∧ Spec.isRange .binary32 still.cal.ct (Spec.to1 still (.ofBits .binary32 0x3F733333) (.ofBits .binary32 0x41BC0000) 0) 2
      ∧ den2Formula still.cfg still.cal (Spec.ac still 0) 2
          (Spec.to1 still (.ofBits .binary32 0x3F733333) (.ofBits .binary32 0x41BC0000) 0) = .num 0x35A01932
      ∧ F32.mag 0x35A01932 ≠ 0 := by
  refine ⟨rfl, rfl, rfl, rfl, ⟨_, rfl⟩, ?_, ?_, ?_, ?_, ?_, ?_, ?_⟩ <;> try unfold Spec.isRange
  all_goals decide +kernel

theorem witness_ChainedRatios : Config.standard.num = .binary32 ∧ Config.standard.fAcorr = .printed := ⟨rfl, rfl⟩

/-- No broken pixel, one, two; an interior column, whose comparison has an outcome, and its broken neighbour. -/
theorem witness_BpfixRepairsInOrder :
    (repairable 5 6).faulted = false ∧ (repairable 5 6).tf.wf = true ∧ (repairable 5 6).tfValid = true
      ∧ (repairable 5 6).calValid = true ∧ framed.tfValid = false
      ∧ (repairable 0xFFFF 0xFFFF).cal.broken0 = 0xFFFF
      ∧ ((repairable 5 0xFFFF).cal.broken0 ≠ 0xFFFF ∧ (repairable 5 0xFFFF).cal.broken1 = 0xFFFF)
      ∧ ((repairable 5 6).cal.broken0 ≠ 0xFFFF ∧ (repairable 5 6).cal.broken1 ≠ 0xFFFF)
      ∧ (((repairable 5 6).tf.read 6).val.sub .binary32 ((repairable 5 6).tf.read 7).val).absGt .binary32
          (((repairable 5 6).tf.read 4).val.sub .binary32 ((repairable 5 6).tf.read 3).val) = some true := by
  refine ⟨rfl, ?_, rfl, rfl, rfl, rfl, ⟨?_, rfl⟩, ⟨?_, ?_⟩, ?_⟩ <;> decide +kernel

/-! ### The facade -/

/-- The answers before INIT of a transport that dumps one word throughout, then answers two RMW steps. -/
def dump (w : Word) : List Word := List.replicate 832 w

/-- A state with these answers. -/
def dumped (w : Word) : State :=
  { State.reset with script := .ok [] :: .ok (dump w) :: (Spec.cfgAnswers [0x0901, 0x0901] ++ []) }

theorem dump_length (w : Word) : (dump w).length = 832 := List.length_replicate

/-- The state once INIT has captured it. -/
def captured (w : Word) : State :=
  { ((dumped w).asked (.init 400)).asked (.read 0x33 0x2400 832) with
    ee := Memory.ofList (dump w), eeState := .raw, eccst := .clean, status := .ok }

theorem captured_ee (w : Word) : (captured w).ee = Memory.ofList (dump w) := rfl

theorem dumped_image (w : Word) : exec .eeld ((dumped w).asked (.init 400)) = .next (captured w) := by
  have hw : ((dumped w).asked (.init 400)).wordsAnswered 832 = some (dump w) := by
    rw [State.wordsAnswered_ok (ws := dump w) (rest := Spec.cfgAnswers [0x0901, 0x0901] ++ []) rfl
      (Nat.le_of_eq (dump_length w).symm), List.take_of_length_le (Nat.le_of_eq (dump_length w))]
  show Host.Outcome.next (State.command _ true true State.capture) = _
  rw [State.command_pass rfl]
  rcases State.capture_cases ((dumped w).asked (.init 400)) with ⟨h, -⟩ | ⟨ws, h, -, hc⟩
  · rw [hw] at h
    cases h
  · rw [hw] at h
    cases h
    rw [hc]
    rfl

/-- Reading such an image. -/
theorem read_dump (w : Word) {i : Nat} (h : i < 832) : (Memory.ofList (dump w)).read i = w := by
  rw [Memory.read_ofList, List.getD_eq_getElem?_getD, dump, List.getElem?_replicate, if_pos h]
  rfl

/-- A scan whose every word has one result has that result. -/
theorem scanWorst_const {c : Config} {ee : Memory Word} {st : EccStatus}
    (h : ∀ i, i < 832 → (hdec c (ee.read i)).2 = st) : scanWorst c ee = st := by
  have key : ∀ (l : List Nat) (w : EccStatus), (∀ i ∈ l, i < 832) → (w = .clean ∨ w = st) → (l = [] → w = st) →
      l.foldl (fun worst i => worst.max (hdec c (ee.read i)).2) w = st := by
    intro l
    induction l with
    | nil => exact fun w _ _ hw => hw rfl
    | cons i l ih =>
      intro w hl hw _
      have hmax : w.max (hdec c (ee.read i)).2 = st := by
        rw [h i (hl i (by simp))]
        rcases hw with hw | hw <;> rw [hw] <;> cases st <;> rfl
      rw [List.foldl_cons, hmax]
      exact ih st (fun j hj => hl j (by simp [hj])) (.inr rfl) (fun _ => rfl)
  rw [scanWorst_eq]
  refine key scanIndices .clean (fun i hi => ?_) (.inl rfl) (fun hn => ?_)
  · have := mem_scanIndices.1 hi
    omega
  · have : 16 ∈ scanIndices := mem_scanIndices.2 ⟨by omega, by omega⟩
    rw [hn] at this
    cases this

/-- INIT's branches: no answer to the transport init; a failed dump; an uncorrectable dump; a dump CALX refuses. The
branch in which all succeeds is witness_InitSucceeds. -/
theorem witness_InitIsComposed :
    ((dumped 0).faulted = false ∧ (dumped 0).inited = false ∧ (dumped 0).calValid = false
        ∧ calibrated.calValid = true)
      ∧ { dumped 0 with script := [.err] }.wordsAnswered 0 = none
      ∧ (dumped 0).wordsAnswered 0 = some []
      ∧ (∃ a, exec .eeld ({ dumped 0 with script := [.ok [], .err] }.asked (.init 400)) = .next a ∧ a.status ≠ .ok)
      ∧ (∃ a b, exec .eeld ((dumped 3).asked (.init 400)) = .next a ∧ a.status = .ok ∧ exec .eccs a = .next b
          ∧ b.eccst = .uncorrectable)
      ∧ ∃ a b, exec .eeld ((dumped 0).asked (.init 400)) = .next a ∧ a.status = .ok ∧ exec .eccs a = .next b
          ∧ b.eccst = .clean := by
  refine ⟨⟨rfl, rfl, rfl, rfl⟩, rfl, rfl, ⟨_, rfl, by decide +kernel⟩, ⟨_, (captured 3).scan, dumped_image 3, rfl, ?_, ?_⟩,
    ⟨_, (captured 0).scan, dumped_image 0, rfl, ?_, ?_⟩⟩
  · show Host.Outcome.next ((captured 3).command true (captured 3).mayScan State.scan) = _
    rw [show (captured 3).mayScan = true from rfl, State.command_pass rfl]
  · rw [State.scan_eccst, captured_ee, show (captured 3).cfg = Config.standard from rfl]
    refine scanWorst_const fun i hi => ?_
    rw [read_dump 3 hi]
    decide +kernel
  · show Host.Outcome.next ((captured 0).command true (captured 0).mayScan State.scan) = _
    rw [show (captured 0).mayScan = true from rfl, State.command_pass rfl]
  · rw [State.scan_eccst, captured_ee, show (captured 0).cfg = Config.standard from rfl]
    refine scanWorst_const fun i hi => ?_
    rw [read_dump 0 hi]
    decide +kernel

/-- A dump of 0xFFFF (H10: valid, decoded to 0x07FF) decodes, passes DEVSEL and has no broken pixel. -/
theorem dump_extracts :
    calxFailure Config.standard (scanImage Config.standard (Memory.ofList (dump 0xFFFF))) = none := by
  have hread : ∀ i, i < 832 → (scanImage Config.standard (Memory.ofList (dump 0xFFFF))).read i
      = if scanned i then 0x07FF else 0xFFFF := by
    intro i hi
    have h0 : (hdec Config.standard 0xFFFF).1 = 0x07FF := by decide +kernel
    rw [read_scanImage, if_pos hi, scanWord, read_dump _ hi, h0]
  have hpix : ∀ p < 192, imageIndex Config.standard (Config.standard.row (.offPix false p)).hi.addr = 64 + p
      ∧ (Config.standard.row (.offPix false p)).hi.width = 11
      ∧ (Config.standard.row (.offPix false p)).hi.start = 0 := by
    decide +kernel
  have hb : brokenList Config.standard (scanImage Config.standard (Memory.ofList (dump 0xFFFF))) = [] := by
    unfold brokenList
    refine List.filter_eq_nil_iff.2 fun p hp => ?_
    have hp' : p < 192 := by simpa [Config.npix] using hp
    obtain ⟨h1, h2, h3⟩ := hpix p hp'
    have hr : rawField Config.standard (scanImage Config.standard (Memory.ofList (dump 0xFFFF)))
        (Config.standard.row (.offPix false p)).hi = 2047 := by
      unfold rawField
      have hs : scanned (64 + p) = true := scanned_iff.2 ⟨by omega, by omega⟩
      rw [h1, h2, h3, hread (64 + p) (by omega), if_pos hs]
      decide
    unfold broken
    rw [hr]
    exact Bool.false_ne_true
  have hd : devSelected Config.standard (scanImage Config.standard (Memory.ofList (dump 0xFFFF))) = true := by
    show (Memory.read _ 10 &&& 0x0040 != 0) = true
    rw [hread 10 (by omega)]
    decide
  unfold calxFailure
  rw [hd, hb, table_unviolated]
  rfl

theorem witness_InitSucceeds :
    (dumped 0xFFFF).faulted = false ∧ (dumped 0xFFFF).inited = false ∧ (dumped 0xFFFF).calValid = false
      ∧ (dumped 0xFFFF).cfg.synInjective = true ∧ (dump 0xFFFF).length = 832
      ∧ [(0x0901 : Word), 0x0901].length = (dumped 0xFFFF).cfg.cfgSeq.length
      ∧ (dumped 0xFFFF).script =
          .ok [] :: .ok (dump 0xFFFF) :: Spec.cfgAnswers [0x0901, 0x0901] ++ []
      ∧ ¬ Spec.someUncorrectable (dumped 0xFFFF).cfg (Memory.ofList (dump 0xFFFF))
      ∧ calxFailure (dumped 0xFFFF).cfg
          (scanImage (dumped 0xFFFF).cfg (Memory.ofList (dump 0xFFFF))) = none := by
  refine ⟨rfl, rfl, rfl, by decide +kernel, dump_length _, rfl, rfl, ?_, dump_extracts⟩
  rintro ⟨i, -, h, h1, -⟩
  rw [read_dump _ (by omega)] at h1
  exact absurd h1 (by decide +kernel)

/-- An err as the first answer of EELD, of RDFRAME and of INIT, and as the second of FRD. -/
theorem witness_ErrAnswerIsTheLast :
    (∃ t, exec .eeld { decoded with script := [.err] } = .next t ∧ t.script.length ≤ 0)
      ∧ (∃ t, exec .rdframe { calibrated with script := [.err] } = .next t ∧ t.script.length ≤ 0)
      ∧ (∃ t, exec .init { State.reset with script := [.err] } = .next t ∧ t.script.length ≤ 0)
      ∧ ∃ t, exec .frd { decoded with script := [[(8 : Word)]].map .ok ++ .err :: [] } = .next t
        ∧ t.script.length ≤ 0 := by
  refine ⟨⟨_, rfl, ?_⟩, ⟨_, rfl, ?_⟩, ⟨_, rfl, ?_⟩, ⟨_, rfl, ?_⟩⟩ <;> decide +kernel

/-- An acquisition that ends OK, and one that does not. -/
theorem witness_RdframeIsComposed :
    receiving.faulted = false ∧ receiving.calValid = true ∧ decoded.calValid = false
      ∧ (∃ a, exec .frd receiving = .next a ∧ a.status = .ok)
      ∧ ∃ a, exec .frd { calibrated with script := [.err] } = .next a ∧ a.status ≠ .ok := by
  refine ⟨rfl, rfl, rfl, ⟨_, rfl, ?_⟩, ⟨_, rfl, ?_⟩⟩ <;> decide +kernel

theorem witness_RdframeSucceeds :
    receiving.faulted = false ∧ receiving.calValid = true ∧ receiving.fb.wf = true
      ∧ Spec.onePass receiving 9 testWindows testTail 1 0x0900 [] := ⟨rfl, rfl, rfl, receiving_onePass⟩

/-- A frame with TF and TA valid. -/
def complete : State :=
  { repairable 5 6 with
    fbValid := true, fb := framed.fb, taValid := true, ta := .num 0x41F05054, cmds := [.transaction [0x6C000005]] }

theorem witness_CalctRunsCalctoThenBpfix :
    complete.faulted = false ∧ complete.calValid = true ∧ complete.fbValid = true ∧ complete.taValid = true
      ∧ complete.emis = .num 0x3F733333 ∧ complete.ta = .num 0x41F05054 ∧ framed.taValid = false :=
  ⟨rfl, rfl, rfl, rfl, rfl, rfl, rfl⟩

/-- The last index and the first that is refused. -/
theorem witness_GettReadsTemperature :
    complete.faulted = false ∧ complete.tfValid = true ∧ framed.tfValid = false ∧ (191 : Word).toNat ≤ 191
      ∧ 191 < (192 : Word).toNat := ⟨rfl, rfl, rfl, by decide, by decide⟩

theorem witness_GetambReadsAmbient :
    complete.faulted = false ∧ complete.taValid = true ∧ framed.taValid = false := ⟨rfl, rfl, rfl⟩

/-! ### The whole machine -/

/-- Every command is answered with a next state. -/
theorem exec_next (i : Instr) (s : State) : ∃ t, exec i s = .next t := by
  cases i <;> exact ⟨_, rfl⟩

/-- So is every step. -/
theorem step_next (s : State) : ∃ t, step s = .next t := by
  unfold step
  split
  · exact ⟨_, rfl⟩
  · exact ⟨_, rfl⟩
  · exact ⟨_, rfl⟩
  · exact exec_next _ _

theorem witness_StepKeepsInvariant : complete.Inv ∧ ∃ t, step complete = .next t := by
  refine ⟨⟨by decide +kernel, rfl, by decide, by decide, by decide, fun h => ?_, fun _ h => ?_, fun _ => rfl,
    fun _ => rfl, fun _ i _ h => ?_, fun h => ?_, fun _ => ?_, fun _ => .inl ?_, ?_⟩, step_next _⟩
  · cases h
  · cases h
  · have hw : ∀ i < 832, (complete.ee.read i).toNat < 2048 := by decide +kernel
    exact hw i (by omega)
  · cases h
  · refine ⟨.inl ?_, .inl ?_, fun h => ?_, fun _ _ => ?_⟩
    · decide +kernel
    · decide +kernel
    · exact absurd h (by decide +kernel)
    · decide +kernel
  · decide +kernel
  · decide +kernel

theorem witness_CalibrationIsImmutable :
    complete.calValid = true ∧ (∀ more, complete.cmds ≠ .reset :: more) ∧ ∃ t, step complete = .next t := by
  refine ⟨rfl, fun more h => ?_, step_next _⟩
  have h' : [HostAct.transaction [0x6C000005]] = .reset :: more := h
  cases h'

theorem witness_DataOnlyByItsWriters : ∃ t, exec (.ldx 5) complete = .next t := exec_next _ _

theorem witness_FlagsOnlyByTheirWriters : ∃ t, exec .bpfix complete = .next t := exec_next _ _

theorem witness_BusRequestsAreTheListedOnes : ∃ t, exec .frd receiving = .next t := exec_next _ _

theorem witness_PortsShowTheRegisters :
    { complete with np := 5, att := 5, win := 6 }.np ≤ 5 ∧ { complete with np := 5, att := 5, win := 6 }.att ≤ 5
      ∧ { complete with np := 5, att := 5, win := 6 }.win ≤ 6 := by decide

theorem witness_ResetInputResets :
    { complete with cmds := [.reset, .transaction [0x24000000]] }.cmds = .reset :: [.transaction [0x24000000]] := rfl

theorem witness_BlockWaits : State.reset.cmds = [] := rfl

end Sys2Proof.Tests
end

section
/-! Rounding in the default NUM (O18). A nonnegative real v, in units of 2^(−149), is rounded by choosing an exponent sh whose
24-bit significands reach v and rounding v / 2^sh to an integer m (`Rounds24`); the binary32 pattern is then sh * 2^23 + m, whose
magnitude is m * 2^sh also where m carries into the next exponent. `Rounds24.rounded` says that this is correct rounding; every
operator of the default NUM is a case of it. -/

namespace Sys2Proof

/-! ## Rounding to an integer -/

/-- m is the integer nearest to u, an exact tie going to the even one. -/
def NearestEven (u : ℝ) (m : ℕ) : Prop :=
  (m : ℝ) - 1 / 2 ≤ u ∧ u ≤ m + 1 / 2 ∧ (u = m - 1 / 2 ∨ u = m + 1 / 2 → m % 2 = 0)

/-- No integer is nearer to u than m is, and one as near makes m even. -/
theorem NearestEven.dist_le {u : ℝ} {m : ℕ} (h : NearestEven u m) (k : ℕ) :
    |(m : ℝ) - u| ≤ |(k : ℝ) - u| ∧ (|(m : ℝ) - u| = |(k : ℝ) - u| → m ≠ k → m % 2 = 0) := by
  obtain ⟨hlo, hhi, htie⟩ := h
  rcases lt_trichotomy k m with hk | rfl | hk
  · have hk' : (k : ℝ) + 1 ≤ m := by exact_mod_cast hk
    rw [abs_of_nonpos (show (k : ℝ) - u ≤ 0 by linarith)]
    exact ⟨abs_le.2 ⟨by linarith, by linarith⟩, fun he _ => htie <| .inl <| by
      rcases abs_cases ((m : ℝ) - u) with ⟨ha, -⟩ | ⟨ha, -⟩ <;> linarith⟩
  · exact ⟨le_rfl, fun _ hne => absurd rfl hne⟩
  · have hk' : (m : ℝ) + 1 ≤ k := by exact_mod_cast hk
    rw [abs_of_nonneg (show 0 ≤ (k : ℝ) - u by linarith)]
    exact ⟨abs_le.2 ⟨by linarith, by linarith⟩, fun he _ => htie <| .inr <| by
      rcases abs_cases ((m : ℝ) - u) with ⟨ha, -⟩ | ⟨ha, -⟩ <;> linarith⟩

/-- `NearestEven.dist_le` for the multiples of a power of two. -/
theorem NearestEven.scaled_dist_le {v : ℝ} {sh m : ℕ} (h : NearestEven (v / 2 ^ sh) m) (k : ℕ) :
    |(m : ℝ) * 2 ^ sh - v| ≤ |(k : ℝ) * 2 ^ sh - v|
      ∧ (|(m : ℝ) * 2 ^ sh - v| = |(k : ℝ) * 2 ^ sh - v| → m ≠ k → m % 2 = 0) := by
  have hpos : (0 : ℝ) < 2 ^ sh := by positivity
  have hscale : ∀ j : ℕ, |(j : ℝ) * 2 ^ sh - v| = |(j : ℝ) - v / 2 ^ sh| * 2 ^ sh := by
    intro j
    rw [← abs_of_pos hpos, ← abs_mul, abs_of_pos hpos, sub_mul, div_mul_cancel₀ _ hpos.ne']
  rw [hscale, hscale]
  obtain ⟨hle, htie⟩ := h.dist_le k
  exact ⟨mul_le_mul_of_nonneg_right hle hpos.le, fun he => htie (mul_right_cancel₀ hpos.ne' he)⟩

/-- Where two is a factor of the divisor, rounding v asks only how v compares with integers. -/
theorem nearestEven_div_two_pow_succ {v : ℝ} {t m : ℕ} :
    NearestEven (v / 2 ^ (t + 1)) m ↔
      (((2 * m - 1) * 2 ^ t : ℤ) : ℝ) ≤ v ∧ v ≤ (((2 * m + 1) * 2 ^ t : ℤ) : ℝ)
        ∧ (v = (((2 * m - 1) * 2 ^ t : ℤ) : ℝ) ∨ v = (((2 * m + 1) * 2 ^ t : ℤ) : ℝ) → m % 2 = 0) := by
  have hpos : (0 : ℝ) < 2 ^ (t + 1) := by positivity
  have hlo : ((m : ℝ) - 1 / 2) * 2 ^ (t + 1) = (((2 * m - 1) * 2 ^ t : ℤ) : ℝ) := by push_cast; ring
  have hhi : ((m : ℝ) + 1 / 2) * 2 ^ (t + 1) = (((2 * m + 1) * 2 ^ t : ℤ) : ℝ) := by push_cast; ring
  rw [NearestEven, le_div_iff₀ hpos, div_le_iff₀ hpos, div_eq_iff hpos.ne', div_eq_iff hpos.ne', hlo, hhi]

/-- The model's integer rounding is to the nearest, ties to even. -/
theorem nearestEven_roundEven (n : ℕ) {d : ℕ} (hd : 0 < d) : NearestEven ((n : ℝ) / d) (roundEven n d) := by
  have hd' : (0 : ℝ) < d := by exact_mod_cast hd
  have hdiv : (d : ℝ) * (n / d : ℕ) + (n % d : ℕ) = n := by exact_mod_cast Nat.div_add_mod n d
  have hr : n % d < d := Nat.mod_lt _ hd
  unfold NearestEven roundEven
  rw [le_div_iff₀ hd', div_le_iff₀ hd', div_eq_iff hd'.ne', div_eq_iff hd'.ne', ← hdiv]
  generalize n / d = q, n % d = r at hr
  have hr' : (r : ℝ) < d := by exact_mod_cast hr
  have hr0 : (0 : ℝ) ≤ r := r.cast_nonneg
  rcases lt_trichotomy (2 * r) d with h | h | h
  · have h' : 2 * (r : ℝ) < d := by exact_mod_cast h
    simp only [if_pos h]
    exact ⟨by linarith, by linarith, fun he => by rcases he with he | he <;> linarith⟩
  · have h' : 2 * (r : ℝ) = d := by exact_mod_cast h
    simp only [h, lt_irrefl, if_false]
    split
    · next hq => exact ⟨by linarith, by linarith, fun _ => hq⟩
    · next hq => push_cast; exact ⟨by linarith, by linarith, fun _ => by omega⟩
  · have h' : (d : ℝ) < 2 * r := by exact_mod_cast h
    simp only [if_neg (not_lt.2 h.le), if_pos h]
    push_cast
    exact ⟨by linarith, by linarith, fun he => by rcases he with he | he <;> linarith⟩

/-! ## Binary32 patterns -/

/-- The binary32 value with this sign and magnitude pattern; `unspecified` from the pattern of the infinity on. -/
def F32.ofPattern (neg : Bool) (b : ℕ) : FVal :=
  if b < 0x7F800000 then .num (BitVec.ofNat 32 (b + signBits neg)) else .unspecified

theorem F32.ofRatio_eq_ofPattern (neg : Bool) (n d : ℕ) :
    F32.ofRatio neg n d =
      F32.ofPattern neg (dropBits (n / d) * 2 ^ 23 + roundEven n (d * 2 ^ dropBits (n / d))) := rfl

theorem F32.neg_ofNat {b : ℕ} {neg : Bool} (hb : b < 2 ^ 31) :
    F32.neg (BitVec.ofNat 32 (b + signBits neg)) = neg := by
  unfold F32.neg signBits
  rw [BitVec.toNat_ofNat]
  cases neg <;> simp <;> omega

/-- The sign bit leaves the low bits of a pattern as they are. -/
theorem F32.toNat_ofNat_mod_two_pow {b k : ℕ} {neg : Bool} (hk : k ≤ 31) :
    (BitVec.ofNat 32 (b + signBits neg)).toNat % 2 ^ k = b % 2 ^ k := by
  have hsign : 2 ^ k ∣ signBits neg := by
    cases neg
    · exact dvd_zero _
    · exact pow_dvd_pow 2 hk
  rw [BitVec.toNat_ofNat, Nat.mod_mod_of_dvd _ (pow_dvd_pow 2 (by omega)), Nat.add_mod, Nat.mod_eq_zero_of_dvd hsign,
    Nat.add_zero, Nat.mod_mod]

/-- The pattern of exponent sh and significand m has magnitude m * 2^sh, also where m = 2^24 carries into the next exponent. -/
theorem F32.mag_ofNat {sh m : ℕ} {neg : Bool} (hm : m ≤ 2 ^ 24) (hsh : sh = 0 ∨ 2 ^ 23 ≤ m)
    (hb : sh * 2 ^ 23 + m < 0x7F800000) :
    F32.mag (BitVec.ofNat 32 (sh * 2 ^ 23 + m + signBits neg)) = m * 2 ^ sh := by
  unfold F32.mag
  rw [F32.expField_ofNat (by omega), F32.toNat_ofNat_mod_two_pow (by norm_num)]
  rcases lt_or_ge m (2 ^ 23) with h | h
  · obtain rfl : sh = 0 := by omega
    rw [if_pos (by omega)]
    omega
  · rw [if_neg (by omega)]
    rcases hm.lt_or_eq with h' | rfl
    · rw [show (sh * 2 ^ 23 + m) / 2 ^ 23 - 1 = sh by omega,
        show (sh * 2 ^ 23 + m) % 2 ^ 23 + 2 ^ 23 = m by omega]
    · rw [show (sh * 2 ^ 23 + 2 ^ 24) / 2 ^ 23 - 1 = sh + 1 by omega,
        show (sh * 2 ^ 23 + 2 ^ 24) % 2 ^ 23 = 0 by omega]
      ring

/-- A binary32 magnitude is a multiple of 2^sh, or it is below the least 24-bit significand times 2^sh. -/
theorem F32.mag_multiple_or_lt (y : F32) (sh : ℕ) :
    (∃ k, F32.mag y = k * 2 ^ sh) ∨ (sh ≠ 0 ∧ F32.mag y < 2 ^ 23 * 2 ^ sh) := by
  rcases Nat.eq_zero_or_pos sh with rfl | hsh
  · exact .inl ⟨_, (Nat.mul_one _).symm⟩
  have hfrac : y.toNat % 2 ^ 23 < 2 ^ 23 := Nat.mod_lt _ (by norm_num)
  unfold F32.mag
  split
  · exact .inr ⟨hsh.ne', hfrac.trans_le (Nat.le_mul_of_pos_right _ (by positivity))⟩
  · rcases le_or_gt sh (F32.expField y - 1) with h | h
    · exact .inl ⟨(y.toNat % 2 ^ 23 + 2 ^ 23) * 2 ^ (F32.expField y - 1 - sh), by
        rw [mul_assoc, ← pow_add, Nat.sub_add_cancel h]⟩
    · refine .inr ⟨hsh.ne', ?_⟩
      calc (y.toNat % 2 ^ 23 + 2 ^ 23) * 2 ^ (F32.expField y - 1)
          < 2 ^ 24 * 2 ^ (F32.expField y - 1) := Nat.mul_lt_mul_of_pos_right (by omega) (by positivity)
        _ ≤ 2 ^ 24 * 2 ^ (sh - 1) := Nat.mul_le_mul_left _ (Nat.pow_le_pow_right (by norm_num) (by omega))
        _ = 2 ^ 23 * 2 ^ sh := by obtain ⟨t, rfl⟩ := Nat.exists_eq_succ_of_ne_zero hsh.ne'; simp; ring

/-! ## Rounding to a 24-bit significand -/

/-- At the exponent sh, whose 24-bit significands reach v, the significand m is v rounded. -/
structure Rounds24 (v : ℝ) (sh m : ℕ) : Prop where
  lt : v < 2 ^ 24 * 2 ^ sh
  le : sh = 0 ∨ 2 ^ 23 * 2 ^ sh ≤ v
  nearest : NearestEven (v / 2 ^ sh) m

namespace Rounds24

variable {v : ℝ} {sh m : ℕ}

theorem significand_le (h : Rounds24 v sh m) : m ≤ 2 ^ 24 := by
  have hu : v / 2 ^ sh < 2 ^ 24 := (div_lt_iff₀ (by positivity)).2 h.lt
  have hm : (m : ℝ) < 2 ^ 24 + 1 := by linarith [h.nearest.1]
  exact Nat.lt_succ_iff.1 (by exact_mod_cast hm)

theorem le_significand (h : Rounds24 v sh m) : sh = 0 ∨ 2 ^ 23 ≤ m := by
  refine h.le.imp_right fun hv => ?_
  have hu : 2 ^ 23 ≤ v / 2 ^ sh := (le_div_iff₀ (by positivity)).2 hv
  have hm : (2 ^ 23 : ℝ) < m + 1 := by linarith [h.nearest.2.1]
  exact Nat.lt_succ_iff.1 (by exact_mod_cast hm)

/-- At exponent 253, whose greatest significand is that of the greatest finite value, the significand carries exactly from
half a unit above that one on: the tie goes to the even 2^24. -/
theorem carries_iff (h : Rounds24 v 253 m) : m = 2 ^ 24 ↔ (2 ^ 25 - 1) * 2 ^ 252 ≤ v := by
  have hmid : (2 ^ 24 - 1 / 2 : ℝ) ≤ v / 2 ^ 253 ↔ (2 ^ 25 - 1) * 2 ^ 252 ≤ v := by
    rw [le_div_iff₀ (by positivity), pow_succ (2 : ℝ) 252, ← mul_assoc, mul_right_comm]
    norm_num
  rw [← hmid]
  obtain ⟨hlo, hhi, htie⟩ := h.nearest
  refine ⟨fun hm => ?_, fun hv => ?_⟩
  · subst hm
    exact_mod_cast hlo
  · refine h.significand_le.lt_or_eq.resolve_left fun hlt => ?_
    have hm : (m : ℝ) + 1 ≤ 2 ^ 24 := by exact_mod_cast hlt
    have hge : (2 ^ 24 : ℝ) ≤ m + 1 := by linarith
    have hge' : 2 ^ 24 ≤ m + 1 := by exact_mod_cast hge
    have heven := htie (.inr (by linarith))
    omega

/-- The pattern passes the greatest finite one exactly where nearest-even rounding has no finite value. -/
theorem overflow_iff (h : Rounds24 v sh m) :
    0x7F800000 ≤ sh * 2 ^ 23 + m ↔ (2 ^ 25 - 1) * 2 ^ 252 ≤ v := by
  have hm := h.significand_le
  have hpow : ∀ {i j : ℕ}, i ≤ j → (2 : ℝ) ^ i ≤ 2 ^ j := fun hij => pow_le_pow_right₀ (by norm_num) hij
  have hpos : (0 : ℝ) < 2 ^ 252 := by positivity
  rcases lt_trichotomy sh 253 with hsh | rfl | hsh
  · refine iff_of_false (by omega) (not_le.2 (h.lt.trans_le ?_))
    linarith [hpow (show sh ≤ 252 by omega)]
  · rw [← h.carries_iff]
    omega
  · have hv : 2 ^ 23 * 2 ^ sh ≤ v := h.le.resolve_left (by omega)
    have hm' : 2 ^ 23 ≤ m := h.le_significand.resolve_left (by omega)
    refine iff_of_true (by omega) (le_trans ?_ hv)
    linarith [hpow (show 252 + 2 ≤ sh by omega), pow_add (2 : ℝ) 252 2]

/-- No binary32 value is nearer to v than m * 2^sh, and one as near makes m even. -/
theorem dist_le (h : Rounds24 v sh m) (y : F32) :
    |(m : ℝ) * 2 ^ sh - v| ≤ |(F32.mag y : ℝ) - v|
      ∧ (|(m : ℝ) * 2 ^ sh - v| = |(F32.mag y : ℝ) - v| → m * 2 ^ sh ≠ F32.mag y → m % 2 = 0) := by
  rcases F32.mag_multiple_or_lt y sh with ⟨k, hk⟩ | ⟨hsh, hy⟩
  · obtain ⟨hle, htie⟩ := h.nearest.scaled_dist_le k
    rw [hk]
    push_cast
    exact ⟨hle, fun he hne => htie he fun hmk => hne (hmk ▸ rfl)⟩
  · have hv := h.le.resolve_left hsh
    have hy' : (F32.mag y : ℝ) < 2 ^ 23 * 2 ^ sh := by exact_mod_cast hy
    have hlt : |(m : ℝ) * 2 ^ sh - v| < |(F32.mag y : ℝ) - v| := by
      refine (h.nearest.scaled_dist_le (2 ^ 23)).1.trans_lt ?_
      push_cast
      rw [abs_of_nonpos (by linarith), abs_of_nonpos (by linarith)]
      linarith
    exact ⟨hlt.le, fun he => absurd he hlt.ne⟩

/-- The pattern of a rounded significand is the correctly rounded binary32 value. -/
theorem rounded (h : Rounds24 v sh m) (neg : Bool) :
    Spec.rounded neg v (F32.ofPattern neg (sh * 2 ^ 23 + m)) := by
  unfold F32.ofPattern
  split
  · next hb =>
    have hover : ¬ (2 ^ 25 - 1) * 2 ^ 252 ≤ v := fun hv => absurd (h.overflow_iff.2 hv) (not_le.2 hb)
    refine ⟨iff_of_false (fun hu => nomatch hu) hover, fun _ => ⟨_, rfl⟩, ?_⟩
    rintro x ⟨⟩
    have hfinite : F32.expField (BitVec.ofNat 32 (sh * 2 ^ 23 + m + signBits neg)) ≠ 255 := by
      rw [F32.expField_ofNat (by omega)]
      omega
    have hlast := F32.toNat_ofNat_mod_two_pow (b := sh * 2 ^ 23 + m) (k := 1) (neg := neg) (by norm_num)
    refine ⟨decide_eq_true hfinite, F32.neg_ofNat (by omega), fun y _ => ?_⟩
    obtain ⟨hle, htie⟩ := h.dist_le y
    rw [F32.mag_ofNat h.significand_le h.le_significand hb, Nat.cast_mul, Nat.cast_pow, Nat.cast_two]
    refine ⟨hle, fun he hne => ?_⟩
    have heven := htie he hne
    omega
  · next hb =>
    exact ⟨iff_of_true rfl (h.overflow_iff.1 (not_lt.1 hb)), fun hne => absurd rfl hne, fun _ hx => nomatch hx⟩

/-- Where a bit is dropped, rounding v asks only for the integers on both sides of v. -/
theorem congr_floor_ceil {w : ℝ} {t : ℕ} (h : Rounds24 w (t + 1) m) (hfloor : ⌊v⌋ = ⌊w⌋) (hceil : ⌈v⌉ = ⌈w⌉) :
    Rounds24 v (t + 1) m := by
  have hle : ∀ k : ℤ, (k : ℝ) ≤ v ↔ (k : ℝ) ≤ w := fun k => by rw [← Int.le_floor, hfloor, Int.le_floor]
  have hge : ∀ k : ℤ, v ≤ k ↔ w ≤ k := fun k => by rw [← Int.ceil_le, hceil, Int.ceil_le]
  have heq : ∀ k : ℤ, v = k ↔ w = k := fun k => by rw [le_antisymm_iff, le_antisymm_iff, hle, hge]
  obtain ⟨hlt, hreach, hnear⟩ := h
  refine ⟨?_, hreach.imp_right fun hw => ?_, ?_⟩
  · have hreach' : ¬ (((2 ^ 24 * 2 ^ (t + 1) : ℤ) : ℝ) ≤ w) := by exact_mod_cast not_le.2 hlt
    rw [← hle] at hreach'
    exact_mod_cast not_le.1 hreach'
  · have hw' : ((2 ^ 23 * 2 ^ (t + 1) : ℤ) : ℝ) ≤ w := by exact_mod_cast hw
    exact_mod_cast (hle _).2 hw'
  · rw [nearestEven_div_two_pow_succ] at hnear ⊢
    rwa [hle, hge, heq, heq]

end Rounds24

/-! ## Every result of the model is a rounded significand -/

/-- The bits dropped leave at most 24. -/
theorem lt_two_pow_dropBits (q : ℕ) : q < 2 ^ 24 * 2 ^ dropBits q := by
  rw [← pow_add]
  exact Nat.lt_log2_self.trans_le (Nat.pow_le_pow_right (by norm_num) (by unfold dropBits; omega))

/-- Where bits are dropped, 24 are left. -/
theorem dropBits_eq_zero_or_le (q : ℕ) : dropBits q = 0 ∨ 2 ^ 23 * 2 ^ dropBits q ≤ q := by
  rcases Nat.eq_zero_or_pos (dropBits q) with h | h
  · exact .inl h
  · have hq : q ≠ 0 := by rintro rfl; simp [dropBits] at h
    refine .inr ?_
    rw [← pow_add, show 23 + dropBits q = Nat.log2 q by unfold dropBits at h ⊢; omega]
    exact Nat.log2_self_le hq

theorem rounds24_ofRatio (n : ℕ) {d : ℕ} (hd : 0 < d) :
    Rounds24 ((n : ℝ) / d) (dropBits (n / d)) (roundEven n (d * 2 ^ dropBits (n / d))) := by
  have hd' : (0 : ℝ) < d := by exact_mod_cast hd
  refine ⟨?_, (dropBits_eq_zero_or_le (n / d)).imp_right fun h => ?_, ?_⟩
  · rw [div_lt_iff₀ hd']
    exact_mod_cast (Nat.div_lt_iff_lt_mul hd).1 (lt_two_pow_dropBits (n / d))
  · rw [le_div_iff₀ hd']
    exact_mod_cast (Nat.le_div_iff_mul_le hd).1 h
  · rw [div_div]
    exact_mod_cast nearestEven_roundEven n (Nat.mul_pos hd (by positivity : 0 < 2 ^ dropBits (n / d)))

/-- A ratio of units is rounded correctly. -/
theorem F32.rounded_ofRatio (neg : Bool) (n : ℕ) {d : ℕ} (hd : 0 < d) :
    Spec.rounded neg ((n : ℝ) / d) (F32.ofRatio neg n d) :=
  (rounds24_ofRatio n hd).rounded neg

theorem F32.rounded_ofUnits (z : ℤ) : Spec.rounded (decide (z < 0)) (z.natAbs : ℝ) (F32.ofUnits z) := by
  have h := F32.rounded_ofRatio (decide (z < 0)) z.natAbs one_pos
  rwa [Nat.cast_one, div_one] at h

/-- From half a unit above the greatest finite value on, `unspecified` is the rounded result. -/
theorem Spec.rounded_unspecified {neg : Bool} {v : ℝ} (hv : (2 ^ 25 - 1) * 2 ^ 252 ≤ v) :
    Spec.rounded neg v .unspecified :=
  ⟨iff_of_true rfl hv, fun h => absurd rfl h, fun _ h => nomatch h⟩

/-! ## Sum and difference -/

@[simp] theorem F32.neg_xor_sign (y : F32) : F32.neg (y ^^^ 0x80000000) = !F32.neg y := by
  have hneg : ∀ z : F32, F32.neg z = z.msb := fun z => by rw [BitVec.msb_eq_decide]; rfl
  rw [hneg, hneg, BitVec.msb_xor]
  exact Bool.xor_true _

@[simp] theorem F32.mag_xor_sign (y : F32) : F32.mag (y ^^^ 0x80000000) = F32.mag y := by
  have hmod : (y ^^^ 0x80000000).toNat % 2 ^ 31 = y.toNat % 2 ^ 31 := by
    rw [BitVec.toNat_xor, Nat.xor_mod_two_pow]
    exact Nat.xor_zero _
  have hexp : F32.expField (y ^^^ 0x80000000) = F32.expField y := by unfold F32.expField; omega
  have hfrac : (y ^^^ 0x80000000).toNat % 2 ^ 23 = y.toNat % 2 ^ 23 := by omega
  unfold F32.mag
  rw [hexp, hfrac]

/-- Changing the sign bit changes the sign of the value. -/
theorem F32.units_xor_sign (y : F32) : F32.units (y ^^^ 0x80000000) = -F32.units y := by
  unfold F32.units
  rw [F32.neg_xor_sign, F32.mag_xor_sign]
  cases F32.neg y <;> simp

theorem F32.roundedSum_add (x y : F32) : Spec.roundedSum (F32.units x + F32.units y) (F32.add x y) := by
  unfold Spec.roundedSum F32.add
  split
  · split <;> exact ⟨_, rfl, by decide⟩
  · exact F32.rounded_ofUnits _

theorem F32.roundedSum_sub (x y : F32) : Spec.roundedSum (F32.units x - F32.units y) (F32.sub x y) := by
  rw [sub_eq_add_neg, ← F32.units_xor_sign]
  exact F32.roundedSum_add _ _

/-! ## Product and quotient -/

theorem F32.rounded_mul (x y : F32) :
    Spec.rounded (F32.neg x != F32.neg y) ((F32.mag x : ℝ) * F32.mag y / 2 ^ 149) (F32.mul x y) := by
  have h := F32.rounded_ofRatio (F32.neg x != F32.neg y) (F32.mag x * F32.mag y) (Nat.two_pow_pos 149)
  rwa [Nat.cast_mul, Nat.cast_pow, Nat.cast_two] at h

theorem F32.div_of_mag_eq_zero (x : F32) {y : F32} (hy : F32.mag y = 0) : F32.div x y = .unspecified := if_pos hy

theorem F32.rounded_div (x : F32) {y : F32} (hy : F32.mag y ≠ 0) :
    Spec.rounded (F32.neg x != F32.neg y) ((F32.mag x : ℝ) * 2 ^ 149 / F32.mag y) (F32.div x y) := by
  rw [F32.div, if_neg hy]
  have h := F32.rounded_ofRatio (F32.neg x != F32.neg y) (F32.mag x * 2 ^ 149) (Nat.pos_of_ne_zero hy)
  rwa [Nat.cast_mul, Nat.cast_pow, Nat.cast_two] at h

/-! ## Square root -/

/-- Trying the bits below 2^k keeps the root between the number found and that number plus 2^k. -/
theorem sqrtFloorFrom_eq_sqrt (x k r : ℕ) (hlo : r * r ≤ x) (hhi : x < (r + 2 ^ k) * (r + 2 ^ k)) :
    sqrtFloorFrom x k r = Nat.sqrt x := by
  induction k generalizing r with
  | zero => exact Nat.eq_sqrt.2 ⟨hlo, hhi⟩
  | succ k ih =>
    unfold sqrtFloorFrom
    simp only
    split
    · next h => exact ih _ h (by rwa [add_assoc, ← two_mul, ← pow_succ'])
    · next h => exact ih _ hlo (not_le.1 h)

theorem sqrtFloor_eq_sqrt (x : ℕ) : sqrtFloor x = Nat.sqrt x := by
  refine sqrtFloorFrom_eq_sqrt x _ 0 (Nat.zero_le x) ?_
  calc x < 2 ^ (Nat.log2 x + 1) := Nat.lt_log2_self
    _ ≤ 2 ^ (Nat.log2 x / 2 + 1 + (Nat.log2 x / 2 + 1)) := Nat.pow_le_pow_right (by norm_num) (by omega)
    _ = _ := by rw [pow_add, zero_add]

/-- The integer root in half units, the last one standing for everything it drops, as `F32.sqrt` rounds it. -/
def stickyRoot (n : ℕ) : ℕ := 2 * Nat.sqrt n + if Nat.sqrt n * Nat.sqrt n = n then 0 else 1

theorem stickyRoot_div_two (n : ℕ) : stickyRoot n / 2 = Nat.sqrt n := by
  unfold stickyRoot
  split <;> omega

/-- An exact root is its own sticky root; any other lies strictly between the same two integers as its sticky root. -/
theorem sqrt_eq_stickyRoot_or_between (n : ℕ) :
    √(n : ℝ) = (stickyRoot n : ℝ) / 2
      ∨ ((Nat.sqrt n : ℝ) < √n ∧ √(n : ℝ) < Nat.sqrt n + 1)
        ∧ ((Nat.sqrt n : ℝ) < (stickyRoot n : ℝ) / 2 ∧ (stickyRoot n : ℝ) / 2 < Nat.sqrt n + 1) := by
  unfold stickyRoot
  split
  · next h =>
    left
    have hn : (n : ℝ) = (Nat.sqrt n : ℝ) * Nat.sqrt n := by exact_mod_cast h.symm
    rw [hn, Real.sqrt_mul_self (Nat.cast_nonneg _)]
    simp
  · next h =>
    right
    have hne : (Nat.sqrt n : ℝ) ≠ √n := fun he =>
      h (by exact_mod_cast (Real.sqrt_eq_iff_mul_self_eq n.cast_nonneg (Nat.cast_nonneg _)).1 he.symm |>.symm)
    push_cast
    exact ⟨⟨lt_of_le_of_ne Real.nat_sqrt_le_real_sqrt hne, Real.real_sqrt_lt_nat_sqrt_succ⟩,
      by linarith, by linarith⟩

theorem floor_sqrt_eq_floor_stickyRoot (n : ℕ) : ⌊√(n : ℝ)⌋ = ⌊(stickyRoot n : ℝ) / 2⌋ := by
  rcases sqrt_eq_stickyRoot_or_between n with h | ⟨⟨hlo, hhi⟩, hlo', hhi'⟩
  · rw [h]
  · rw [(Int.floor_eq_iff (z := (Nat.sqrt n : ℤ))).2 ⟨hlo.le, hhi⟩,
      (Int.floor_eq_iff (z := (Nat.sqrt n : ℤ))).2 ⟨hlo'.le, hhi'⟩]

theorem ceil_sqrt_eq_ceil_stickyRoot (n : ℕ) : ⌈√(n : ℝ)⌉ = ⌈(stickyRoot n : ℝ) / 2⌉ := by
  rcases sqrt_eq_stickyRoot_or_between n with h | ⟨⟨hlo, hhi⟩, hlo', hhi'⟩
  · rw [h]
  · rw [(Int.ceil_eq_iff (z := (Nat.sqrt n : ℤ) + 1)).2 ⟨by simpa using hlo, by exact_mod_cast hhi.le⟩,
      (Int.ceil_eq_iff (z := (Nat.sqrt n : ℤ) + 1)).2 ⟨by simpa using hlo', by exact_mod_cast hhi'.le⟩]

/-- The root of a number of at least 50 bits drops a bit, so that rounding its sticky root rounds the root itself. -/
theorem rounded_ofRatio_stickyRoot {n : ℕ} (hn : 2 ^ 24 * 2 ^ 24 ≤ n) :
    Spec.rounded false √(n : ℝ) (F32.ofRatio false (stickyRoot n) 2) := by
  have hdrop : dropBits (stickyRoot n / 2) ≠ 0 := by
    rw [stickyRoot_div_two]
    intro h0
    have hlt := lt_two_pow_dropBits (Nat.sqrt n)
    rw [h0] at hlt
    exact absurd (Nat.le_sqrt.2 hn) (by omega)
  obtain ⟨t, ht⟩ := Nat.exists_eq_succ_of_ne_zero hdrop
  have hsticky := rounds24_ofRatio (stickyRoot n) two_pos
  rw [F32.ofRatio_eq_ofPattern]
  rw [ht] at hsticky ⊢
  exact (hsticky.congr_floor_ceil (floor_sqrt_eq_floor_stickyRoot n) (ceil_sqrt_eq_ceil_stickyRoot n)).rounded false

theorem F32.sqrt_eq (x : F32) :
    F32.sqrt x = if F32.mag x = 0 then .num x else if F32.neg x then .unspecified
      else F32.ofRatio false (stickyRoot (F32.mag x * 2 ^ 149)) 2 := by
  simp only [F32.sqrt, stickyRoot, sqrtFloor_eq_sqrt]

theorem F32.sqrt_of_mag_eq_zero {x : F32} (h : F32.mag x = 0) : F32.sqrt x = .num x := by
  rw [F32.sqrt_eq, if_pos h]

theorem F32.sqrt_of_neg {x : F32} (hneg : F32.neg x = true) (h : F32.mag x ≠ 0) : F32.sqrt x = .unspecified := by
  rw [F32.sqrt_eq, if_neg h, if_pos hneg]

theorem F32.sqrt_of_pos {x : F32} (hneg : F32.neg x = false) (h : F32.mag x ≠ 0) :
    F32.sqrt x = F32.ofRatio false (stickyRoot (F32.mag x * 2 ^ 149)) 2 := by
  rw [F32.sqrt_eq, if_neg h, if_neg (by simp [hneg])]

/-- A zero is a rounded zero. -/
theorem F32.rounded_zero {x : F32} (hx : F32.finite x = true) (h : F32.mag x = 0) :
    Spec.rounded (F32.neg x) 0 (.num x) := by
  refine ⟨iff_of_false (fun hu => nomatch hu) (by norm_num), fun _ => ⟨x, rfl⟩, ?_⟩
  rintro _ ⟨⟩
  refine ⟨hx, rfl, fun y _ => ?_⟩
  rw [h]
  have hle : |((0 : ℕ) : ℝ) - 0| ≤ |(F32.mag y : ℝ) - 0| := by simp
  exact ⟨hle, fun he hne => absurd (by simpa using he.symm) hne.symm⟩

theorem F32.rounded_sqrt {x : F32} (hx : F32.finite x = true) (hneg : F32.neg x = false) :
    Spec.rounded false √((F32.mag x : ℝ) * 2 ^ 149) (F32.sqrt x) := by
  rcases eq_or_ne (F32.mag x) 0 with h | h
  · rw [F32.sqrt_of_mag_eq_zero h, h]
    simpa [hneg] using F32.rounded_zero hx h
  · have hn : 2 ^ 24 * 2 ^ 24 ≤ F32.mag x * 2 ^ 149 := by
      have := Nat.pos_of_ne_zero h
      omega
    rw [F32.sqrt_of_pos hneg h]
    exact_mod_cast rounded_ofRatio_stickyRoot hn

/-! ## Integers, powers of two, literals -/

theorem rounded_i2f (z : ℤ) :
    Spec.rounded (decide (z < 0)) ((z.natAbs : ℝ) * 2 ^ 149) (i2f .binary32 z) := by
  have hneg : decide (z * 2 ^ 149 < 0) = decide (z < 0) := decide_eq_decide.2 (by omega)
  have habs : (z * 2 ^ 149).natAbs = z.natAbs * 2 ^ 149 := by rw [Int.natAbs_mul]; rfl
  have h := F32.rounded_ofUnits (z * 2 ^ 149)
  rw [hneg, habs] at h
  exact_mod_cast h

/-- From 0 to half a unit a real rounds to +0: the tie goes to the even 0. -/
theorem Spec.rounded_zero_of_le_half {v : ℝ} (h0 : 0 ≤ v) (hv : v ≤ 1 / 2) : Spec.rounded false v (.num 0) := by
  have h : Rounds24 v 0 0 :=
    ⟨by norm_num; linarith, .inl rfl, by norm_num; linarith, by norm_num; linarith, fun _ => rfl⟩
  exact h.rounded false

theorem rounded_pow2 (e : ℤ) : Spec.rounded false ((2 : ℝ) ^ (e + 149)) (pow2 .binary32 e) := by
  have hmono : ∀ {i j : ℤ}, i ≤ j → (2 : ℝ) ^ i ≤ 2 ^ j := fun hij => zpow_le_zpow_right₀ (by norm_num) hij
  show Spec.rounded false _ (F32.pow2 e)
  unfold F32.pow2
  split
  · next hlow =>
    refine Spec.rounded_zero_of_le_half (by positivity) ?_
    simpa using hmono (show e + 149 ≤ -1 by omega)
  · split
    · next hhigh =>
      refine Spec.rounded_unspecified ?_
      calc ((2 : ℝ) ^ 25 - 1) * 2 ^ 252 ≤ 2 ^ 25 * 2 ^ 252 := by
            exact mul_le_mul_of_nonneg_right (by norm_num) (by positivity)
        _ = (2 : ℝ) ^ (277 : ℤ) := by rw [← pow_add]; rfl
        _ ≤ 2 ^ (e + 149) := hmono (by omega)
    · obtain ⟨k, hk⟩ := Int.eq_ofNat_of_zero_le (show 0 ≤ e + 149 by omega)
      have hneg : decide ((2 : ℤ) ^ k < 0) = false := decide_eq_false (not_lt.2 (by positivity))
      have h := F32.rounded_ofUnits (2 ^ k)
      rw [hneg, Int.natAbs_pow] at h
      rw [hk]
      simpa using h

theorem rounded_literal (p : ℕ) {q : ℕ} (hq : 0 < q) :
    Spec.rounded false ((p : ℝ) * 2 ^ 149 / q) (literal .binary32 p q) := by
  have h := F32.rounded_ofRatio false (p * 2 ^ 149) hq
  rwa [Nat.cast_mul, Nat.cast_pow, Nat.cast_two] at h

/-! ## The operators on binary32 values -/

theorem FVal.add_num {x y : F32} (hx : F32.finite x = true) (hy : F32.finite y = true) :
    (FVal.num x).add .binary32 (.num y) = F32.add x y := by
  simp [FVal.add, Numerics.op2, FVal.lift2, hx, hy]

theorem FVal.sub_num {x y : F32} (hx : F32.finite x = true) (hy : F32.finite y = true) :
    (FVal.num x).sub .binary32 (.num y) = F32.sub x y := by
  simp [FVal.sub, Numerics.op2, FVal.lift2, hx, hy]

theorem FVal.mul_num {x y : F32} (hx : F32.finite x = true) (hy : F32.finite y = true) :
    (FVal.num x).mul .binary32 (.num y) = F32.mul x y := by
  simp [FVal.mul, Numerics.op2, FVal.lift2, hx, hy]

theorem FVal.div_num {x y : F32} (hx : F32.finite x = true) (hy : F32.finite y = true) :
    (FVal.num x).div .binary32 (.num y) = F32.div x y := by
  simp [FVal.div, Numerics.op2, FVal.lift2, hx, hy]

theorem FVal.root4_num {x : F32} (hx : F32.finite x = true) :
    (FVal.num x).root4 .binary32 = FVal.lift1 F32.sqrt (F32.sqrt x) := by
  simp [FVal.root4, FVal.lift1, hx]

theorem FVal.root4_num_of_neg {x : F32} (hx : F32.finite x = true) (hneg : F32.neg x = true) (h : F32.mag x ≠ 0) :
    (FVal.num x).root4 .binary32 = .unspecified := by
  rw [FVal.root4_num hx, F32.sqrt_of_neg hneg h]
  rfl

/-- A root is finite, so that the fourth root is the root of the root. -/
theorem FVal.root4_num_of_sqrt {x r : F32} (hx : F32.finite x = true) (hr : F32.sqrt x = .num r) :
    (FVal.num x).root4 .binary32 = F32.sqrt r := by
  have hfinite : F32.finite r = true := by simpa [FVal.Sound, hr] using F32.sqrt_sound hx
  rw [FVal.root4_num hx, hr]
  exact if_pos hfinite

/-- Settles O18: every operator is `Rounds24.rounded` at the exponent and significand the model chooses. -/
theorem roundsToNearestEven : Obligations.RoundsToNearestEven := by
  refine ⟨fun neg n d hd => F32.rounded_ofRatio neg n hd, fun x y hx hy => ?_, fun x hx => ?_, rounded_i2f,
    rounded_pow2, fun p q hq => rounded_literal p hq⟩
  · rw [FVal.add_num hx hy, FVal.sub_num hx hy, FVal.mul_num hx hy, FVal.div_num hx hy]
    exact ⟨F32.roundedSum_add x y, F32.roundedSum_sub x y, F32.rounded_mul x y, F32.div_of_mag_eq_zero x,
      F32.rounded_div x⟩
  · exact ⟨F32.rounded_sqrt hx, F32.sqrt_of_mag_eq_zero, FVal.root4_num_of_neg hx,
      fun r hr => FVal.root4_num_of_sqrt hx hr⟩

end Sys2Proof
end

section
/-! Every command in one form: the checks of R293, then its pseudocode (`State.perform`). `exec_cases` and `step_cases` say
once what a command and a step can do; the statements about every command are read off them. -/

namespace Sys2Proof.Machine

/-- The flag precondition of a command: its row of R291. -/
def State.admits (s : State) : Instr → Bool
  | .xraw _ => s.imageReadable
  | .xsgl _ _ => s.imageReadable
  | .xdbl _ _ _ => s.imageReadable
  | .sext _ => true
  | .scdiv _ => true
  | .scmul _ => true
  | .ldx _ => true
  | .eccw _ => true
  | .eccs => s.mayScan
  | .calx => s.mayExtract
  | .eeld => s.mayLoad
  | .frd => true
  | .amb => s.mayCompensate
  | .calcto _ _ => s.mayCompensate
  | .bpfix => s.mayRepair
  | .init => s.mayInit
  | .rdframe => s.mayReadFrame
  | .calct => s.mayCalculate
  | .gett _ => s.mayGetTemp
  | .getamb => s.mayGetAmbient

/-- The pseudocode of a command, once its checks have passed. -/
def State.perform (s : State) : Instr → State
  | .xraw d => s.extracted (addressViolation s.cfg d) (rawField s.cfg s.ee d)
  | .xsgl sgn d => s.extracted (addressViolation s.cfg d) (singleField s.cfg s.ee sgn d)
  | .xdbl sgn hi lo => s.extracted (dualViolation s.cfg hi lo) (dualField s.cfg s.ee sgn hi lo)
  | .sext w =>
    if 0 ≤ s.xrInt ∧ s.xrInt < 2 ^ w.toNat then (s.setXr (sextNat w.toNat s.xrInt.toNat)).done
    else s.refuse .badOperand
  | .scdiv e => (s.setFrVal (scdivValue s e)).done
  | .scmul e => if fitsXr (scmulProduct s e) then (s.setXr (scmulProduct s e)).done else s.refuse .badOperand
  | .ldx n => (s.setXr n.toNat).done
  | .eccw w => { s.setXr (hdec s.cfg w).1.toNat with status := (hdec s.cfg w).2.status }
  | .eccs => s.scan
  | .calx => s.extract
  | .eeld => s.capture
  | .frd => s.acquire
  | .amb => s.ambient
  | .calcto eps tr => s.calculate (FVal.ofBits s.cfg.num eps) (FVal.ofBits s.cfg.num tr)
  | .bpfix => s.repair
  | .init => s.initialise
  | .rdframe => s.readFrame
  | .calct => s.calculateTemps
  | .gett i => if i.toNat < Config.npix then (s.setFr (s.tf.read i.toNat)).done else s.refuse .badOperand
  | .getamb => (s.setFr s.ta).done

/-- Every command is its checks and its pseudocode (R293). -/
theorem exec_eq_command (i : Instr) (s : State) :
    exec i s = .next (s.command i.wf (s.admits i) fun s => s.perform i) := by
  cases i <;> rfl

/-- Everything a command can do: it is halted (R290), or refused by a check (R285, R293), or its pseudocode runs. -/
theorem exec_cases {i : Instr} {s t : State} (h : exec i s = .next t) :
    (s.faulted = true ∧ t = s.refuse .halted)
    ∨ (s.faulted = false ∧ ∃ x, (x = .illegalCommand ∨ x = .badState) ∧ t = s.refuse x)
    ∨ (s.faulted = false ∧ i.wf = true ∧ s.admits i = true ∧ t = s.perform i) := by
  rw [exec_eq_command] at h
  injection h with h
  subst h
  obtain ⟨hf, h⟩ | ⟨hf, -, h⟩ | ⟨hf, -, -, h⟩ | ⟨hf, hl, hp, h⟩ :=
    s.command_cases i.wf (s.admits i) fun s => s.perform i
  · exact .inl ⟨hf, h⟩
  · exact .inr (.inl ⟨hf, _, .inl rfl, h⟩)
  · exact .inr (.inl ⟨hf, _, .inr rfl, h⟩)
  · exact .inr (.inr ⟨hf, hl, hp, h⟩)

/-- A transaction that forms no command is halted or refused (R102, R290). -/
theorem State.answerIllegal_cases (s : State) :
    (s.faulted = true ∧ s.answerIllegal = s.refuse .halted)
    ∨ (s.faulted = false ∧ s.answerIllegal = s.refuse .illegalCommand) := by
  cases h : s.faulted with
  | true => exact .inl ⟨rfl, State.command_faulted h _ _ _⟩
  | false => exact .inr ⟨rfl, State.command_illegal h _ _⟩

/-- Everything a step can do: wait, reset, refuse words that form no command, or run a command. -/
theorem step_cases {s t : State} (h : step s = .next t) :
    (s.cmds = [] ∧ t = s)
    ∨ (∃ more, s.cmds = .reset :: more ∧ t = s.taken.hostReset)
    ∨ t = s.taken.answerIllegal
    ∨ ∃ i, exec i s.taken = .next t := by
  unfold step fetch at h
  cases hc : s.cmds with
  | nil =>
    rw [hc] at h
    injection h with h
    exact .inl ⟨rfl, h.symm⟩
  | cons act more =>
    rw [hc] at h
    cases act with
    | reset =>
      injection h with h
      exact .inr (.inl ⟨more, rfl, h.symm⟩)
    | transaction ws =>
      simp only [fetchWords] at h
      cases hd : decode ws with
      | error e =>
        rw [hd] at h
        injection h with h
        exact .inr (.inr (.inl h.symm))
      | ok i =>
        rw [hd] at h
        exact .inr (.inr (.inr ⟨i, h⟩))

/-- A step whose act is the reset input (R310). -/
theorem step_reset {s : State} {more : List HostAct} (h : s.cmds = .reset :: more) :
    step s = .next s.taken.hostReset := by
  simp only [step, fetch, h]

/-! ## Commands with an operand to check (R126, R131, R272) -/

/-- Everything SEXT can do once its checks have passed. -/
theorem State.perform_sext_cases (s : State) (w : Word) :
    (∃ z, s.perform (.sext w) = (s.setXr z).done) ∨ s.perform (.sext w) = s.refuse .badOperand := by
  by_cases h : 0 ≤ s.xrInt ∧ s.xrInt < 2 ^ w.toNat
  · exact .inl ⟨_, if_pos h⟩
  · exact .inr (if_neg h)

/-- Everything SCMUL can do once its checks have passed. -/
theorem State.perform_scmul_cases (s : State) (e : BitVec 6) :
    (∃ z, s.perform (.scmul e) = (s.setXr z).done) ∨ s.perform (.scmul e) = s.refuse .badOperand := by
  by_cases h : fitsXr (scmulProduct s e) = true
  · exact .inl ⟨_, if_pos h⟩
  · exact .inr (if_neg h)

/-- Everything GETT can do once its checks have passed. -/
theorem State.perform_gett_cases (s : State) (k : Word) :
    (∃ w, s.perform (.gett k) = (s.setFr w).done) ∨ s.perform (.gett k) = s.refuse .badOperand := by
  by_cases h : k.toNat < Config.npix
  · exact .inl ⟨_, if_pos h⟩
  · exact .inr (if_neg h)

/-! ## Violations are contract violations -/

theorem Status.contract_iff {x : Status} : x.contract = true ↔ x = .addressOutOfRange ∨ x = .fieldTooWide := by
  cases x <;> simp [Status.contract]

theorem addressViolation_contract {c : Config} {d : Desc} {x : Status} (h : addressViolation c d = some x) :
    x.contract = true := by
  rw [addressViolation_eq] at h
  split at h
  · cases h
  · cases h; rfl

theorem dualViolation_contract {c : Config} {hi lo : Desc} {x : Status} (h : dualViolation c hi lo = some x) :
    x.contract = true := by
  unfold dualViolation at h
  split at h
  · cases h; rfl
  · obtain h | ⟨-, h⟩ := Option.or_eq_some_iff.1 h <;> exact addressViolation_contract h

theorem fieldViolation_contract {c : Config} {n : RowName} {x : Status} (h : fieldViolation c n = some x) :
    x.contract = true := by
  unfold fieldViolation rowViolation at h
  split at h
  · exact addressViolation_contract h
  · exact dualViolation_contract h

theorem valueViolation_contract {c : Config} {n : RowName} {x : Status} (h : valueViolation c n = some x) :
    x.contract = true := by
  have hexp : ∀ o : Option RowName, o.bind (fieldViolation c) = some x → x.contract = true := fun o ho => by
    obtain ⟨m, -, hm⟩ := Option.bind_eq_some_iff.1 ho
    exact fieldViolation_contract hm
  unfold valueViolation at h
  obtain h | ⟨-, h⟩ := Option.or_eq_some_iff.1 h
  · exact fieldViolation_contract h
  · split at h
    · cases h
    · exact hexp _ h
    · exact hexp _ h

theorem tableViolation_contract {c : Config} {x : Status} (h : tableViolation c = some x) : x.contract = true := by
  unfold tableViolation at h
  obtain h | ⟨-, h⟩ := Option.or_eq_some_iff.1 h <;> obtain ⟨n, -, hn⟩ := List.exists_of_findSome?_eq_some h
  · exact valueViolation_contract hn
  · exact fieldViolation_contract hn

/-- CALX raises Unusable or a contract violation (R160, R162, R163). -/
theorem calxFailure_eq_some {c : Config} {ee : Memory Word} {x : Status} (h : calxFailure c ee = some x) :
    x = .unusable ∨ x.contract = true := by
  unfold calxFailure at h
  split at h
  · cases h; exact .inl rfl
  · obtain h | ⟨-, h⟩ := Option.or_eq_some_iff.1 h
    · exact .inr (tableViolation_contract h)
    · split at h
      · cases h; exact .inl rfl
      · cases h

theorem calxFailure_ne_ok {c : Config} {ee : Memory Word} {x : Status} (h : calxFailure c ee = some x) : x ≠ .ok := by
  rintro rfl
  simpa [Status.contract] using calxFailure_eq_some h

end Sys2Proof.Machine
end

section
/-! Which registers a command may change. Registers with the same writers form a group; `footprint` lists the groups a
command may write, and `exec_keeps` says that it leaves every other group alone (10_state R20 to R40). -/

namespace Sys2Proof.Machine

/-! ## Groups of registers -/

/-- The registers, grouped by their writers. STATUS and FS are in no group: every command may end with them (R284). -/
inductive RegGroup where
  | xr
  | fr
  /-- TF and TF_VALID. -/
  | tf
  /-- TA and TA_VALID. -/
  | ta
  /-- EE, EE_STATE and ECCST. -/
  | image
  /-- FB, FB_VALID and the frame reader's registers. -/
  | frame
  /-- CAL and CAL_VALID. -/
  | cal
  | inited
  | warn
  | fault
  /-- The transport's answers and the requests issued. -/
  | bus
  /-- What no command writes: EMIS, the parameters, the host's acts. -/
  | fixed

/-- Two states agree on every register of a group. -/
def State.agreesOn (s : State) (g : RegGroup) (t : State) : Prop :=
  match g with
  | .xr => t.xr = s.xr
  | .fr => t.fr = s.fr
  | .tf => t.tf = s.tf ∧ t.tfValid = s.tfValid
  | .ta => t.ta = s.ta ∧ t.taValid = s.taValid
  | .image => t.ee = s.ee ∧ t.eeState = s.eeState ∧ t.eccst = s.eccst
  | .frame => t.fb = s.fb ∧ t.fbValid = s.fbValid ∧ t.np = s.np ∧ t.att = s.att ∧ t.win = s.win ∧ t.subp = s.subp
      ∧ t.stw = s.stw
  | .cal => t.cal = s.cal ∧ t.calValid = s.calValid
  | .inited => t.inited = s.inited
  | .warn => t.wEcc = s.wEcc ∧ t.wCfg = s.wCfg
  | .fault => t.faulted = s.faulted
  | .bus => t.script = s.script ∧ t.reqs = s.reqs
  | .fixed => t.emis = s.emis ∧ t.cfg = s.cfg ∧ t.cmds = s.cmds

/-- t differs from s in the groups W only, beside STATUS, FS and the count of draws. -/
def State.Keeps (s : State) (W : List RegGroup) (t : State) : Prop := ∀ g, g ∉ W → s.agreesOn g t

theorem State.agreesOn_trans {g : RegGroup} {s t u : State} (h : s.agreesOn g t) (h' : t.agreesOn g u) :
    s.agreesOn g u := by
  cases g <;> simp_all [State.agreesOn]

theorem State.Keeps.refl (s : State) (W : List RegGroup) : s.Keeps W s := fun g _ => by
  cases g <;> simp [State.agreesOn]

theorem State.Keeps.trans {V W X : List RegGroup} {s t u : State} (h : s.Keeps V t) (h' : t.Keeps W u)
    (hV : V ⊆ X := by simp) (hW : W ⊆ X := by simp) : s.Keeps X u := fun g hg =>
  State.agreesOn_trans (h g fun hm => hg (hV hm)) (h' g fun hm => hg (hW hm))

theorem State.Keeps.mono {V W : List RegGroup} {s t : State} (h : s.Keeps V t) (hV : V ⊆ W := by simp) : s.Keeps W t :=
  fun g hg => h g fun hm => hg (hV hm)

/-! ## What each operation keeps -/

theorem State.keeps_refuse (s : State) (x : Status) : s.Keeps [] (s.refuse x) := fun g _ => by
  cases g <;> simp [State.agreesOn]

theorem State.keeps_done (s : State) : s.Keeps [] s.done := fun g _ => by
  cases g <;> simp [State.agreesOn]

theorem State.keeps_raise (s : State) (x : Status) : s.Keeps [.fault] (s.raise x) := fun g hg => by
  cases g <;> simp [State.agreesOn] at hg ⊢

/-- Only a contract violation sets FAULT (R286). -/
theorem State.keeps_raise_noncontract (s : State) {x : Status} (hx : x.contract = false) : s.Keeps [] (s.raise x) :=
  fun g _ => by cases g <;> simp [State.agreesOn, hx]

theorem State.keeps_setXr (s : State) (z : Int) : s.Keeps [.xr] (s.setXr z) := fun g hg => by
  cases g <;> simp [State.agreesOn] at hg ⊢

theorem State.keeps_setFr (s : State) (w : FWord) : s.Keeps [.fr] (s.setFr w) := fun g hg => by
  cases g <;> simp [State.agreesOn] at hg ⊢

theorem State.keeps_setFrVal (s : State) (v : FVal) : s.Keeps [.fr] (s.setFrVal v) := fun g hg => by
  cases g <;> simp [State.agreesOn] at hg ⊢

theorem State.keeps_asked (s : State) (q : BusReq) : s.Keeps [.bus] (s.asked q) := fun g hg => by
  cases g <;> simp [State.agreesOn] at hg ⊢

theorem State.keeps_ambient (s : State) : s.Keeps [.ta] s.ambient := fun g hg => by
  cases g <;> simp [State.agreesOn] at hg ⊢

theorem State.keeps_calculate (s : State) (eps tr : FVal) : s.Keeps [.tf, .ta] (s.calculate eps tr) := fun g hg => by
  cases g <;> simp [State.agreesOn] at hg ⊢

theorem State.keeps_repair (s : State) : s.Keeps [.tf] s.repair := fun g hg => by
  cases g <;> simp [State.agreesOn] at hg ⊢

theorem State.keeps_scan (s : State) : s.Keeps [.image] s.scan := fun g hg => by
  cases g <;> simp [State.agreesOn] at hg ⊢

theorem State.keeps_commitCal (s : State) : s.Keeps [.cal] s.commitCal := fun g hg => by
  cases g <;> simp [State.agreesOn] at hg ⊢

theorem State.keeps_frStart (s : State) : s.Keeps [.frame] s.frStart := fun g hg => by
  cases g <;> simp [State.agreesOn] at hg ⊢

theorem State.keeps_warnEcc (s : State) : s.Keeps [.warn] s.warnEcc := fun g hg => by
  cases g <;> simp [State.agreesOn] at hg ⊢

theorem State.keeps_frRun (k : Nat) (s : State) : s.Keeps [.frame, .bus] (State.frRun k s) := fun g hg => by
  rw [State.frRun_frame]
  cases g <;> simp [State.agreesOn] at hg ⊢

theorem State.keeps_configure (s : State) : s.Keeps [.inited, .warn, .bus] s.configure := fun g hg => by
  rw [State.configure, State.runCfg_frame]
  cases g <;> simp [State.agreesOn] at hg ⊢

/-! ## What each command keeps -/

theorem State.keeps_extracted (s : State) (v : Option Status) (z : Int) : s.Keeps [.xr, .fault] (s.extracted v z) := by
  cases v with
  | none => exact (s.keeps_setXr z).trans (s.setXr z).keeps_done
  | some x => exact (s.keeps_raise x).mono

theorem State.keeps_capture (s : State) : s.Keeps [.image, .bus] s.capture := fun g hg => by
  obtain ⟨-, h⟩ | ⟨ws, -, -, h⟩ := s.capture_cases <;> rw [h]
  · cases g <;> simp [State.agreesOn] at hg ⊢
  · cases g <;> simp [State.agreesOn] at hg ⊢

theorem State.keeps_extract (s : State) : s.Keeps [.cal, .fault] s.extract := by
  obtain ⟨x, -, h⟩ | ⟨-, h⟩ := s.extract_cases <;> rw [h]
  · exact (s.keeps_raise x).mono
  · exact s.keeps_commitCal.mono

theorem State.keeps_acquire (s : State) : s.Keeps [.frame, .bus] s.acquire :=
  s.keeps_frStart.trans (s.frStart.keeps_frRun _)

/-- Everything RDFRAME can do: the acquisition, and on success AMB (R268). -/
theorem State.readFrame_cases (s : State) :
    (s.acquire.status = .ok ∧ s.readFrame = s.acquire.ambient)
    ∨ (s.acquire.status ≠ .ok ∧ s.readFrame = s.acquire) := by
  by_cases h : s.acquire.status = .ok
  · exact .inl ⟨h, if_pos h⟩
  · exact .inr ⟨h, if_neg h⟩

theorem State.keeps_readFrame (s : State) : s.Keeps [.frame, .bus, .ta] s.readFrame := by
  obtain ⟨-, h⟩ | ⟨-, h⟩ := s.readFrame_cases <;> rw [h]
  · exact s.keeps_acquire.trans s.acquire.keeps_ambient
  · exact s.keeps_acquire.mono

theorem State.keeps_calculateTemps (s : State) : s.Keeps [.tf, .ta] s.calculateTemps :=
  (s.keeps_calculate _ _).trans (State.keeps_repair _)

/-! ## INIT stage by stage (R262) -/

/-- The state once INIT has asked for the image: the bus is initialised and the capture has ended. -/
def State.dumped (s : State) : State := (s.asked (.init s.cfg.freqKhz)).capture

/-- The state in which INIT extracts the calibration: the image is scanned and a corrected word noted (R264). -/
def State.prepared (s : State) : State := s.dumped.scan.warnEcc

/-- Everything INIT can do: its bus init fails; the capture fails; the scan finds an uncorrectable word; the extraction is
refused; or all succeeds. -/
theorem State.initialise_cases (s : State) :
    s.initialise = (s.asked (.init s.cfg.freqKhz)).raise .transportError
    ∨ (s.dumped.status ≠ .ok ∧ s.initialise = s.dumped)
    ∨ (s.dumped.status = .ok ∧ s.initialise = s.dumped.scan.raise .uncorrectableError)
    ∨ (s.dumped.status = .ok
        ∧ ∃ x, calxFailure s.prepared.cfg s.prepared.ee = some x ∧ s.initialise = s.prepared.raise x)
    ∨ (s.dumped.status = .ok ∧ calxFailure s.prepared.cfg s.prepared.ee = none
        ∧ s.initialise = s.prepared.commitCal.configure) := by
  have hinit : s.initialise = if (s.wordsAnswered 0).isSome then (s.asked (.init s.cfg.freqKhz)).initDump
      else (s.asked (.init s.cfg.freqKhz)).raise .transportError := by
    unfold State.initialise State.busInit
    cases (s.wordsAnswered 0).isSome <;> rfl
  have hdump : (s.asked (.init s.cfg.freqKhz)).initDump = if s.dumped.status = .ok then s.dumped.initScan else s.dumped :=
    rfl
  have hscan : s.dumped.initScan = if s.dumped.scan.eccst = .uncorrectable then
      s.dumped.scan.raise .uncorrectableError else s.prepared.initExtract := rfl
  have hextract : s.prepared.initExtract = if s.prepared.extract.status = .ok then s.prepared.extract.configure
      else s.prepared.extract := rfl
  rw [hinit]
  split
  case isFalse => exact .inl rfl
  rw [hdump]
  split
  case isFalse hd => exact .inr (.inl ⟨hd, rfl⟩)
  case isTrue hd =>
  rw [hscan]
  split
  case isTrue => exact .inr (.inr (.inl ⟨hd, rfl⟩))
  rw [hextract]
  obtain ⟨x, hx, he⟩ | ⟨hx, he⟩ := s.prepared.extract_cases <;> rw [he]
  · have hok : x ≠ .ok := calxFailure_ne_ok hx
    exact .inr (.inr (.inr (.inl ⟨hd, x, hx, if_neg hok⟩)))
  · exact .inr (.inr (.inr (.inr ⟨hd, hx, if_pos rfl⟩)))

theorem State.keeps_dumped (s : State) : s.Keeps [.image, .bus] s.dumped :=
  (s.keeps_asked _).trans (State.keeps_capture _)

theorem State.keeps_prepared (s : State) : s.Keeps [.image, .bus, .warn] s.prepared :=
  (s.keeps_dumped.trans s.dumped.keeps_scan (X := [.image, .bus])).trans (State.keeps_warnEcc _)

theorem State.keeps_initialise (s : State) : s.Keeps [.image, .cal, .inited, .warn, .fault, .bus] s.initialise := by
  obtain h | ⟨-, h⟩ | ⟨-, h⟩ | ⟨-, x, -, h⟩ | ⟨-, -, h⟩ := s.initialise_cases <;> rw [h]
  · exact (s.keeps_asked _).trans (State.keeps_raise _ _)
  · exact s.keeps_dumped.mono
  · exact s.keeps_dumped.trans (s.dumped.keeps_scan.trans (State.keeps_raise _ _) (X := [.image, .fault]))
  · exact s.keeps_prepared.trans (State.keeps_raise _ _)
  · exact s.keeps_prepared.trans (s.prepared.keeps_commitCal.trans (State.keeps_configure _)
      (X := [.cal, .inited, .warn, .bus]))

/-! ## The footprint of a command -/

/-- The groups a command may write (R20 to R40). -/
@[simp] def footprint : Instr → List RegGroup
  | .xraw _ => [.xr, .fault]
  | .xsgl _ _ => [.xr, .fault]
  | .xdbl _ _ _ => [.xr, .fault]
  | .sext _ => [.xr]
  | .scdiv _ => [.fr]
  | .scmul _ => [.xr]
  | .ldx _ => [.xr]
  | .eccw _ => [.xr]
  | .eccs => [.image]
  | .calx => [.cal, .fault]
  | .eeld => [.image, .bus]
  | .frd => [.frame, .bus]
  | .amb => [.ta]
  | .calcto _ _ => [.tf, .ta]
  | .bpfix => [.tf]
  | .init => [.image, .cal, .inited, .warn, .fault, .bus]
  | .rdframe => [.frame, .bus, .ta]
  | .calct => [.tf, .ta]
  | .gett _ => [.fr]
  | .getamb => [.fr]

/-- The pseudocode of a command keeps what is not in its footprint. -/
theorem State.keeps_perform (s : State) (i : Instr) : s.Keeps (footprint i) (s.perform i) := by
  cases i with
  | xraw d => exact s.keeps_extracted _ _
  | xsgl sgn d => exact s.keeps_extracted _ _
  | xdbl sgn hi lo => exact s.keeps_extracted _ _
  | sext w =>
    obtain ⟨_, h⟩ | h := s.perform_sext_cases w <;> rw [h]
    · exact (s.keeps_setXr _).trans (State.keeps_done _)
    · exact (s.keeps_refuse _).mono
  | scdiv e => exact (s.keeps_setFrVal _).trans (State.keeps_done _)
  | scmul e =>
    obtain ⟨_, h⟩ | h := s.perform_scmul_cases e <;> rw [h]
    · exact (s.keeps_setXr _).trans (State.keeps_done _)
    · exact (s.keeps_refuse _).mono
  | ldx n => exact (s.keeps_setXr _).trans (State.keeps_done _)
  | eccw w => exact (s.keeps_setXr _).trans (State.keeps_refuse _ _)
  | eccs => exact s.keeps_scan
  | calx => exact s.keeps_extract
  | eeld => exact s.keeps_capture
  | frd => exact s.keeps_acquire
  | amb => exact s.keeps_ambient
  | calcto eps tr => exact s.keeps_calculate _ _
  | bpfix => exact s.keeps_repair
  | init => exact s.keeps_initialise
  | rdframe => exact s.keeps_readFrame
  | calct => exact s.keeps_calculateTemps
  | gett k =>
    obtain ⟨_, h⟩ | h := s.perform_gett_cases k <;> rw [h]
    · exact (s.keeps_setFr _).trans (State.keeps_done _)
    · exact (s.keeps_refuse _).mono
  | getamb => exact (s.keeps_setFr _).trans (State.keeps_done _)

/-- So does the command, refused or not. -/
theorem exec_keeps {i : Instr} {s t : State} (h : exec i s = .next t) : s.Keeps (footprint i) t := by
  obtain ⟨-, rfl⟩ | ⟨-, x, -, rfl⟩ | ⟨-, -, -, rfl⟩ := exec_cases h
  · exact (s.keeps_refuse _).mono
  · exact (s.keeps_refuse _).mono
  · exact s.keeps_perform i

end Sys2Proof.Machine
end

section
/-! A whole acquisition (43_frame_reader R195 to R205): what holds in every state of it, that it comes to IDLE within the
steps the model gives it, and which words of FB it writes. -/

namespace Sys2Proof.Machine

/-! ## The counters, and the end of the acquisition -/

/-- What holds of the counters and of FB_VALID in every state of an acquisition (R38, R195 to R201). -/
structure State.Acquiring (s : State) : Prop where
  np_le : s.np ≤ 5
  att_le : s.att ≤ 5
  win_le : s.win ≤ 6
  polling : s.fs = .pollStatus → s.np ≤ 4 ∧ s.att = 0
  passing : s.fs = .clearFlag ∨ s.fs = .readWindows ∨ s.fs = .repoll → s.att ≤ 4
  invalid : s.fs ≠ .idle → s.fbValid = false

/-- How many more requests the machine can issue: a poll each, then nine for each pass, then the control read (R203). -/
def State.frBudget (s : State) : Nat :=
  match s.fs with
  | .idle => 0
  | .pollStatus => 5 - s.np + 46
  | .clearFlag => (5 - s.att) * 9 + 1
  | .readWindows => (5 - s.att) * 9 - s.win
  | .repoll => (5 - s.att) * 9 - 7
  | .readCtrl => 1

theorem State.acquiring_frStart (s : State) : s.frStart.Acquiring := by
  constructor <;> simp

theorem State.frBudget_frStart (s : State) : s.frStart.frBudget = frMaxSteps := rfl

theorem State.frBudget_pos {s : State} (h : s.Acquiring) (hi : s.fs ≠ .idle) : 0 < s.frBudget := by
  have := h.passing
  have := h.win_le
  unfold State.frBudget
  cases hf : s.fs <;> simp_all <;> omega

/-- A state of an acquisition that has come to IDLE. -/
theorem State.Acquiring.ended {s : State} (hi : s.fs = .idle) (hnp : s.np ≤ 5) (hatt : s.att ≤ 5) (hwin : s.win ≤ 6) :
    s.Acquiring := by
  constructor <;> simp [*]

/-- One step of the machine keeps the bounds and uses up budget. -/
theorem State.Acquiring.frStep {s : State} (h : s.Acquiring) (hi : s.fs ≠ .idle) :
    s.frStep.Acquiring ∧ s.frStep.frBudget < s.frBudget := by
  have hpos := s.frBudget_pos h hi
  obtain ⟨hnp, hatt, hwin, hpoll, hpass, hinv⟩ := h
  have hv := hinv hi
  obtain ⟨hs, -⟩ | ⟨-, hs⟩ | ⟨ws, hf, -, hs⟩ | ⟨hf, -, hs⟩ | ⟨ws, hf, hw, -, hs⟩ | ⟨ws, hf, hw, -, hs⟩
    | ⟨ws, hf, -, hs⟩ | ⟨ws, hf, -, hs⟩ := s.frStep_cases
  · exact absurd hs hi
  · rw [hs]
    exact ⟨.ended rfl hnp hatt hwin, hpos⟩
  · obtain ⟨hnp', hatt'⟩ := hpoll hf
    rw [hs]
    obtain ⟨-, h⟩ | ⟨-, hn, h⟩ | ⟨-, hn, h⟩ := (s.asked _).polled_cases (firstWord ws) <;> rw [h]
    · exact ⟨⟨hnp, hatt, hwin, nofun, fun _ => hatt'.le.trans (Nat.zero_le 4), fun _ => hv⟩,
        by simp [State.frBudget, hf]; omega⟩
    · exact ⟨.ended rfl hn.le hatt hwin, hpos⟩
    · rw [State.asked_np] at hn
      exact ⟨⟨by simp; omega, hatt, hwin, fun _ => ⟨by simp; omega, hatt'⟩, fun _ => hatt'.le.trans (Nat.zero_le 4),
        fun _ => hv⟩, by simp [State.frBudget, hf]; omega⟩
  · have hatt' := hpass (.inl hf)
    rw [hs]
    exact ⟨⟨hnp, hatt, Nat.zero_le 6, nofun, fun _ => hatt', fun _ => hv⟩, by simp [State.frBudget, hf]⟩
  · have hatt' := hpass (.inr (.inl hf))
    rw [hs]
    exact ⟨⟨hnp, hatt, hw, fun hp => absurd (hf.symm.trans hp) nofun, fun _ => hatt', fun _ => hv⟩,
      by simp [State.frBudget, hf]; omega⟩
  · have hatt' := hpass (.inr (.inl hf))
    rw [hs]
    exact ⟨⟨hnp, hatt, hwin, nofun, fun _ => hatt', fun _ => hv⟩, by simp [State.frBudget, hf]; omega⟩
  · have hatt' := hpass (.inr (.inr hf))
    rw [hs]
    obtain ⟨-, h⟩ | ⟨-, hn, h⟩ | ⟨-, hn, h⟩ := (s.asked _).repolled_cases (firstWord ws) <;> rw [h]
    · exact ⟨⟨hnp, Nat.succ_le_succ hatt', hwin, nofun, nofun, fun _ => hv⟩, by simp [State.frBudget, hf]; omega⟩
    · exact ⟨⟨hnp, hn.le, hwin, nofun, fun _ => Nat.le_of_lt_succ hn, fun _ => hv⟩,
        by simp [State.frBudget, hf]; omega⟩
    · exact ⟨.ended rfl hnp (Nat.succ_le_succ hatt') hwin, hpos⟩
  · rw [hs]
    exact ⟨.ended rfl hnp hatt hwin, hpos⟩

/-- A run with enough steps keeps the bounds and comes to IDLE. -/
theorem State.Acquiring.frRun {k : Nat} {s : State} (h : s.Acquiring) (hk : s.frBudget ≤ k) :
    (State.frRun k s).Acquiring ∧ (State.frRun k s).fs = .idle := by
  induction k generalizing s with
  | zero =>
    by_cases hi : s.fs = .idle
    · exact ⟨h, hi⟩
    · have := State.frBudget_pos h hi
      omega
  | succ k ih =>
    by_cases hi : s.fs = .idle
    · rw [State.frRun_idle hi]
      exact ⟨h, hi⟩
    · rw [State.frRun_succ hi]
      obtain ⟨h', hlt⟩ := h.frStep hi
      exact ih h' (by omega)

/-- An acquisition ends in IDLE with its counters in bounds, whatever the transport answers (R38, R203). -/
theorem State.acquire_ends (s : State) : s.acquire.Acquiring ∧ s.acquire.fs = .idle :=
  s.acquiring_frStart.frRun s.frBudget_frStart.le

/-! ## What a step does to FB, and how it ends -/

/-- Everything one step of the machine can do to FB: nothing, a window of the frame, or the trailer, which ends the
acquisition (R198, R199, R201). -/
theorem State.frStep_fb_cases (s : State) :
    (s.frStep.fb = s.fb ∧ s.frStep.fbValid = s.fbValid)
    ∨ (∃ k ws, k + ws.length ≤ 240 ∧ s.frStep.fb = s.fb.writeList k ws ∧ s.frStep.fbValid = s.fbValid)
    ∨ (∃ w, s.frStep.fs = .idle ∧ s.frStep.status = .ok
        ∧ s.frStep.fb = (s.fb.write s.cfg.trailerBase w).write (s.cfg.trailerBase + 1) (if s.subp then 1 else 0)) := by
  obtain ⟨-, hs⟩ | ⟨-, hs⟩ | ⟨ws, -, -, hs⟩ | ⟨-, -, hs⟩ | ⟨ws, -, hw, hl, hs⟩ | ⟨ws, -, -, hl, hs⟩
    | ⟨ws, -, -, hs⟩ | ⟨ws, -, -, hs⟩ := s.frStep_cases <;> rw [hs]
  · exact .inl ⟨rfl, rfl⟩
  · exact .inl ⟨rfl, rfl⟩
  · obtain ⟨-, h⟩ | ⟨-, -, h⟩ | ⟨-, -, h⟩ := (s.asked _).polled_cases (firstWord ws) <;> rw [h] <;> exact .inl ⟨rfl, rfl⟩
  · exact .inl ⟨rfl, rfl⟩
  · exact .inr (.inl ⟨32 * s.win, ws, by rw [State.wordsAnswered_length hl]; omega, rfl, rfl⟩)
  · exact .inr (.inl ⟨192, ws, by rw [State.wordsAnswered_length hl], rfl, rfl⟩)
  · obtain ⟨-, h⟩ | ⟨-, -, h⟩ | ⟨-, -, h⟩ := (s.asked _).repolled_cases (firstWord ws) <;> rw [h] <;>
      exact .inl ⟨rfl, rfl⟩
  · exact .inr (.inr ⟨firstWord ws, rfl, rfl, rfl⟩)

/-- The statuses a step of the machine can write (R195 to R201). -/
theorem State.frStep_status_cases (s : State) :
    s.frStep.status = s.status ∨ s.frStep.status = .ok ∨ s.frStep.status = .transportError
      ∨ s.frStep.status = .frameTimeout := by
  obtain ⟨-, hs⟩ | ⟨-, hs⟩ | ⟨ws, -, -, hs⟩ | ⟨-, -, hs⟩ | ⟨ws, -, -, -, hs⟩ | ⟨ws, -, -, -, hs⟩
    | ⟨ws, -, -, hs⟩ | ⟨ws, -, -, hs⟩ := s.frStep_cases <;> rw [hs]
  · exact .inl rfl
  · exact .inr (.inr (.inl rfl))
  · obtain ⟨-, h⟩ | ⟨-, -, h⟩ | ⟨-, -, h⟩ := (s.asked _).polled_cases (firstWord ws) <;> rw [h] <;> simp
  · exact .inl rfl
  · exact .inl rfl
  · exact .inl rfl
  · obtain ⟨-, h⟩ | ⟨-, -, h⟩ | ⟨-, -, h⟩ := (s.asked _).repolled_cases (firstWord ws) <;> rw [h] <;> simp
  · exact .inr (.inl rfl)

@[simp] theorem State.frStep_cfg (s : State) : s.frStep.cfg = s.cfg := by rw [State.frStep_frame]

/-! ## FB outside the frame (R21, R205) -/

/-- FB of t is canonical, and from 240 on it reads as m did, but for the trailer once an acquisition has ended OK. -/
def State.OutsideFrameKept (m : Memory Word) (t : State) : Prop :=
  t.fb.wf = true ∧ ∀ i, 240 ≤ i →
    t.fb.read i = m.read i
      ∨ (t.fs = .idle ∧ t.status = .ok ∧ (i = t.cfg.trailerBase ∨ i = t.cfg.trailerBase + 1))

theorem State.OutsideFrameKept.frStep {m : Memory Word} {s : State} (hi : s.fs ≠ .idle) (h : s.OutsideFrameKept m) :
    s.frStep.OutsideFrameKept m := by
  obtain ⟨hwf, hread⟩ := h
  have hkept : ∀ i, 240 ≤ i → s.fb.read i = m.read i := fun i hi' =>
    (hread i hi').resolve_right fun h => hi h.1
  obtain ⟨hfb, -⟩ | ⟨k, ws, hk, hfb, -⟩ | ⟨w, hidle, hok, hfb⟩ := s.frStep_fb_cases <;>
    unfold State.OutsideFrameKept <;> rw [hfb]
  · exact ⟨hwf, fun i hi' => .inl (hkept i hi')⟩
  · refine ⟨Memory.wf_writeList hwf, fun i hi' => .inl ?_⟩
    rw [Memory.read_writeList hwf, if_neg (by omega), hkept i hi']
  · refine ⟨Memory.wf_write (Memory.wf_write hwf), fun i hi' => ?_⟩
    by_cases htrailer : i = s.cfg.trailerBase ∨ i = s.cfg.trailerBase + 1
    · exact .inr ⟨hidle, hok, by rwa [State.frStep_cfg]⟩
    · rw [Memory.read_write (Memory.wf_write hwf), Memory.read_write hwf, if_neg (by omega), if_neg (by omega)]
      exact .inl (hkept i hi')

theorem State.outsideFrameKept_acquire {s : State} (hwf : s.fb.wf = true) : s.acquire.OutsideFrameKept s.fb :=
  State.frRun_induct (fun _ => State.OutsideFrameKept.frStep) _ ⟨hwf, fun _ _ => .inl rfl⟩

end Sys2Proof.Machine

namespace Sys2Proof

open Machine

/-- Settles O33, by `State.OutsideFrameKept` along the run of the machine. -/
theorem frdWritesOnlyTheFrame : Obligations.FrdWritesOnlyTheFrame := by
  intro s t hwf h
  have hrefused : ∀ x, (s.refuse x).fb.wf = true ∧ ∀ i, 240 ≤ i →
      ((s.refuse x).status = .ok → i ≠ s.cfg.trailerBase ∧ i ≠ s.cfg.trailerBase + 1) →
        (s.refuse x).fb.read i = s.fb.read i := fun x => ⟨hwf, fun _ _ _ => rfl⟩
  obtain ⟨-, rfl⟩ | ⟨-, x, -, rfl⟩ | ⟨-, -, -, rfl⟩ := exec_cases h
  · exact hrefused _
  · exact hrefused x
  · obtain ⟨hwf', hread⟩ := State.outsideFrameKept_acquire hwf
    obtain ⟨-, hcfg, -⟩ := s.keeps_acquire .fixed (by simp)
    refine ⟨hwf', fun i hi hok => (hread i hi).resolve_right ?_⟩
    rintro ⟨-, hstatus, hi'⟩
    obtain ⟨hne, hne'⟩ := hok hstatus
    rw [hcfg] at hi'
    exact hi'.elim hne hne'

end Sys2Proof
end

section
/-! Who writes what, and reset: each register changes only under its writers (O53, O54), a valid calibration is never written
again (O52), WARN is sticky and FS only returns to IDLE, and what the reset input leaves (O51, O57, O58). -/

namespace Sys2Proof.Machine

/-! ## FS and WARN -/

theorem State.fs_extracted (s : State) (v : Option Status) (z : Int) :
    (s.extracted v z).fs = s.fs ∨ (s.extracted v z).fs = .idle := by
  obtain ⟨x, -, h⟩ | ⟨-, h⟩ := s.extracted_cases v z <;> simp [h]

theorem State.fs_capture (s : State) : s.capture.fs = s.fs ∨ s.capture.fs = .idle := by
  obtain ⟨-, h⟩ | ⟨ws, -, -, h⟩ := s.capture_cases <;> simp [h]

theorem State.fs_extract (s : State) : s.extract.fs = s.fs ∨ s.extract.fs = .idle := by
  obtain ⟨x, -, h⟩ | ⟨-, h⟩ := s.extract_cases <;> simp [h]

theorem State.fs_readFrame (s : State) : s.readFrame.fs = .idle := by
  obtain ⟨-, h⟩ | ⟨-, h⟩ := s.readFrame_cases <;> rw [h]
  · exact s.acquire_ends.2
  · exact s.acquire_ends.2

theorem State.fs_initialise (s : State) : s.initialise.fs = s.fs ∨ s.initialise.fs = .idle := by
  have hdumped : s.dumped.fs = s.fs ∨ s.dumped.fs = .idle := State.fs_capture _
  obtain h | ⟨-, h⟩ | ⟨-, h⟩ | ⟨-, x, -, h⟩ | ⟨-, -, h⟩ := s.initialise_cases <;> rw [h]
  · exact .inr rfl
  · exact hdumped
  · exact .inr rfl
  · exact .inr rfl
  · rw [State.configure, State.runCfg_frame]
    simpa [State.prepared] using hdumped

/-- The pseudocode of a command leaves FS as it was or IDLE (R284). -/
theorem State.fs_perform (s : State) (i : Instr) : (s.perform i).fs = s.fs ∨ (s.perform i).fs = .idle := by
  cases i with
  | xraw d => exact s.fs_extracted _ _
  | xsgl sgn d => exact s.fs_extracted _ _
  | xdbl sgn hi lo => exact s.fs_extracted _ _
  | sext w => obtain ⟨z, h⟩ | h := s.perform_sext_cases w <;> simp [h]
  | scdiv e => exact .inl rfl
  | scmul e => obtain ⟨z, h⟩ | h := s.perform_scmul_cases e <;> simp [h]
  | ldx n => exact .inl rfl
  | eccw w => exact .inl rfl
  | eccs => exact .inl s.scan_fs
  | calx => exact s.fs_extract
  | eeld => exact s.fs_capture
  | frd => exact .inr s.acquire_ends.2
  | amb => exact .inl rfl
  | calcto eps tr => exact .inl rfl
  | bpfix => exact .inl rfl
  | init => exact s.fs_initialise
  | rdframe => exact .inr s.fs_readFrame
  | calct => exact .inl rfl
  | gett k => obtain ⟨w, h⟩ | h := s.perform_gett_cases k <;> simp [h]
  | getamb => exact .inl rfl

/-- So does the command, refused or not. -/
theorem exec_fs {i : Instr} {s t : State} (h : exec i s = .next t) : t.fs = s.fs ∨ t.fs = .idle := by
  obtain ⟨-, rfl⟩ | ⟨-, x, -, rfl⟩ | ⟨-, -, -, rfl⟩ := exec_cases h
  · exact .inl rfl
  · exact .inl rfl
  · exact s.fs_perform i

/-- A warning that is set stays set (R35). -/
def State.WarnSticky (s t : State) : Prop := (s.wEcc = true → t.wEcc = true) ∧ (s.wCfg = true → t.wCfg = true)

theorem State.WarnSticky.trans {s t u : State} (h : s.WarnSticky t) (h' : t.WarnSticky u) : s.WarnSticky u :=
  ⟨fun hs => h'.1 (h.1 hs), fun hs => h'.2 (h.2 hs)⟩

theorem State.Keeps.warnSticky {W : List RegGroup} {s t : State} (h : s.Keeps W t) (hW : .warn ∉ W := by simp) :
    s.WarnSticky t := by
  obtain ⟨hecc, hcfg⟩ := h .warn hW
  exact ⟨fun hs => hecc.trans hs, fun hs => hcfg.trans hs⟩

theorem State.warnSticky_warnEcc (s : State) : s.WarnSticky s.warnEcc := by
  simp +contextual [State.WarnSticky]

theorem State.warnSticky_runCfg (l : List Rmw) (s : State) : s.WarnSticky (State.runCfg l s) := by
  induction l generalizing s with
  | nil => exact ⟨id, id⟩
  | cons m rest ih =>
    unfold State.runCfg State.busRead State.busWrite
    cases h : s.wordsAnswered 1 with
    | none => exact ⟨id, fun _ => rfl⟩
    | some ws =>
      cases hw : ((s.asked (.read s.cfg.sa m.reg 1)).wordsAnswered 0).isSome with
      | false => simp only [hw]; exact ⟨id, fun _ => rfl⟩
      | true => simp only [hw]; exact ih ((s.asked _).asked _)

theorem State.warnSticky_configure (s : State) : s.WarnSticky s.configure := s.warnSticky_runCfg _

theorem State.warnSticky_prepared (s : State) : s.WarnSticky s.prepared :=
  (s.keeps_dumped.warnSticky.trans s.dumped.keeps_scan.warnSticky).trans (State.warnSticky_warnEcc _)

theorem State.warnSticky_initialise (s : State) : s.WarnSticky s.initialise := by
  obtain h | ⟨-, h⟩ | ⟨-, h⟩ | ⟨-, x, -, h⟩ | ⟨-, -, h⟩ := s.initialise_cases <;> rw [h]
  · exact (s.keeps_asked _).warnSticky.trans (State.keeps_raise _ _).warnSticky
  · exact s.keeps_dumped.warnSticky
  · exact (s.keeps_dumped.warnSticky.trans s.dumped.keeps_scan.warnSticky).trans (State.keeps_raise _ _).warnSticky
  · exact s.warnSticky_prepared.trans (State.keeps_raise _ _).warnSticky
  · exact (s.warnSticky_prepared.trans s.prepared.keeps_commitCal.warnSticky).trans (State.warnSticky_configure _)

theorem footprint_warn {i : Instr} (h : i ≠ .init) : RegGroup.warn ∉ footprint i := by
  cases i with
  | init => exact absurd rfl h
  | _ => simp

/-- No command clears a warning: INIT only sets them, no other command writes them (R35). -/
theorem exec_warnSticky {i : Instr} {s t : State} (h : exec i s = .next t) : s.WarnSticky t := by
  by_cases hi : i = .init
  · subst hi
    obtain ⟨-, rfl⟩ | ⟨-, x, -, rfl⟩ | ⟨-, -, -, rfl⟩ := exec_cases h
    · exact (s.keeps_refuse _).warnSticky
    · exact (s.keeps_refuse _).warnSticky
    · exact s.warnSticky_initialise
  · exact (exec_keeps h).warnSticky (footprint_warn hi)

end Sys2Proof.Machine

namespace Sys2Proof

open Machine

/-! ## The footprint is the list of writers the statements use -/

theorem footprint_xr {i : Instr} (h : ¬ Spec.writesXr i) : RegGroup.xr ∉ footprint i := by
  cases i with
  | xraw d => exact absurd trivial h
  | xsgl sgn d => exact absurd trivial h
  | xdbl sgn hi lo => exact absurd trivial h
  | sext w => exact absurd trivial h
  | scmul e => exact absurd trivial h
  | ldx n => exact absurd trivial h
  | eccw w => exact absurd trivial h
  | _ => simp

theorem footprint_fr {i : Instr} (h : ¬ Spec.writesFr i) : RegGroup.fr ∉ footprint i := by
  cases i with
  | scdiv e => exact absurd trivial h
  | gett k => exact absurd trivial h
  | getamb => exact absurd trivial h
  | _ => simp

theorem footprint_tf {i : Instr} (h : ¬ Spec.writesTf i) : RegGroup.tf ∉ footprint i := by
  cases i with
  | calcto eps tr => exact absurd trivial h
  | bpfix => exact absurd trivial h
  | calct => exact absurd trivial h
  | _ => simp

theorem footprint_ta {i : Instr} (h : ¬ Spec.writesTa i) : RegGroup.ta ∉ footprint i := by
  cases i with
  | amb => exact absurd trivial h
  | calcto eps tr => exact absurd trivial h
  | rdframe => exact absurd trivial h
  | calct => exact absurd trivial h
  | _ => simp

theorem footprint_image {i : Instr} (h : ¬ Spec.writesImage i) : RegGroup.image ∉ footprint i := by
  cases i with
  | eeld => exact absurd trivial h
  | eccs => exact absurd trivial h
  | init => exact absurd trivial h
  | _ => simp

theorem footprint_frame {i : Instr} (h : ¬ Spec.acquires i) : RegGroup.frame ∉ footprint i := by
  cases i with
  | frd => exact absurd trivial h
  | rdframe => exact absurd trivial h
  | _ => simp

theorem footprint_cal {i : Instr} (h : ¬ Spec.writesCal i) : RegGroup.cal ∉ footprint i := by
  cases i with
  | calx => exact absurd trivial h
  | init => exact absurd trivial h
  | _ => simp

theorem footprint_fault {i : Instr} (h : ¬ Spec.mayFault i) : RegGroup.fault ∉ footprint i := by
  cases i with
  | xraw d => exact absurd trivial h
  | xsgl sgn d => exact absurd trivial h
  | xdbl sgn hi lo => exact absurd trivial h
  | calx => exact absurd trivial h
  | init => exact absurd trivial h
  | _ => simp

theorem footprint_bus {i : Instr} (h : ¬ Spec.usesBus i) : RegGroup.bus ∉ footprint i := by
  cases i with
  | eeld => exact absurd trivial h
  | frd => exact absurd trivial h
  | init => exact absurd trivial h
  | rdframe => exact absurd trivial h
  | _ => simp

theorem footprint_inited {i : Instr} (h : i ≠ .init) : RegGroup.inited ∉ footprint i := by
  cases i with
  | init => exact absurd rfl h
  | _ => simp

theorem footprint_fixed (i : Instr) : RegGroup.fixed ∉ footprint i := by
  cases i <;> simp

/-- The commands that write CAL are refused once CAL_VALID = 1 (R291). -/
theorem admits_of_calValid {i : Instr} {s : State} (hcal : s.calValid = true) (h : s.admits i = true) :
    ¬ Spec.writesCal i := by
  cases i with
  | calx => exact absurd (show s.mayExtract = true from h) (by simp [State.mayExtract, hcal])
  | init => exact absurd (show s.mayInit = true from h) (by simp [State.mayInit, hcal])
  | _ => exact id

theorem exec_keeps_cal {i : Instr} {s t : State} (hcal : s.calValid = true) (h : exec i s = .next t) :
    s.agreesOn .cal t := by
  obtain ⟨-, rfl⟩ | ⟨-, x, -, rfl⟩ | ⟨-, -, hpre, rfl⟩ := exec_cases h
  · exact s.keeps_refuse _ .cal (by simp)
  · exact s.keeps_refuse _ .cal (by simp)
  · exact s.keeps_perform i .cal (footprint_cal (admits_of_calValid hcal hpre))

/-- Settles O53: each group's agreement from `exec_keeps`. -/
theorem dataOnlyByItsWriters : Obligations.DataOnlyByItsWriters := by
  intro i s t h
  have hk := exec_keeps h
  exact ⟨fun hi => hk .xr (footprint_xr hi), fun hi => hk .fr (footprint_fr hi), fun hi => (hk .tf (footprint_tf hi)).1,
    fun hi => (hk .ta (footprint_ta hi)).1, fun hi => (hk .image (footprint_image hi)).1,
    fun hi => (hk .frame (footprint_frame hi)).1, fun hi => (hk .cal (footprint_cal hi)).1, hk .fixed (footprint_fixed i)⟩

/-- Settles O54: the flags' agreement from `exec_keeps`, with `exec_warnSticky` and `exec_fs`. -/
theorem flagsOnlyByTheirWriters : Obligations.FlagsOnlyByTheirWriters := by
  intro i s t h
  have hk := exec_keeps h
  obtain ⟨hecc, hcfg⟩ := exec_warnSticky h
  exact ⟨fun hi => ⟨hk .inited (footprint_inited hi), hk .warn (footprint_warn hi)⟩, hecc, hcfg,
    fun hi => (hk .image (footprint_image hi)).2, fun hi => (hk .cal (footprint_cal hi)).2,
    fun hi => (hk .frame (footprint_frame hi)).2, fun hi => (hk .tf (footprint_tf hi)).2,
    fun hi => (hk .ta (footprint_ta hi)).2, fun hi => hk .fault (footprint_fault hi),
    fun hi => hk .bus (footprint_bus hi), exec_fs h⟩

/-- Settles O52: the commands that write CAL are refused once CAL_VALID = 1. -/
theorem calibrationIsImmutable : Obligations.CalibrationIsImmutable := by
  intro s t hcal hreset h
  have hkeep : s.agreesOn .cal t := by
    obtain ⟨-, rfl⟩ | ⟨more, hr, -⟩ | rfl | ⟨i, hi⟩ := step_cases h
    · exact State.Keeps.refl t [] .cal (by simp)
    · exact absurd hr (hreset more)
    · obtain ⟨-, ha⟩ | ⟨-, ha⟩ := s.taken.answerIllegal_cases <;> rw [ha] <;> exact ⟨rfl, rfl⟩
    · exact exec_keeps_cal (s := s.taken) hcal hi
  exact ⟨hkeep.1, hkeep.2.trans hcal⟩

/-- Settles O57: every register's value in `State.reset`. -/
theorem resetValues : Obligations.ResetValues :=
  ⟨rfl, rfl, rfl, rfl, rfl, rfl, rfl, rfl, rfl, rfl, rfl, rfl, rfl, rfl, rfl, rfl, rfl, rfl, rfl⟩

/-- Settles O58: the step is `State.hostReset`, whose registers are those of `State.reset`. -/
theorem resetInputResets : Obligations.ResetInputResets := by
  intro s more h
  refine ⟨_, step_reset h, ?_⟩
  simp [h]

end Sys2Proof
end

section
/-! The invariant (O50, O51), in parts that each speak of one group of registers. A part whose group a command does not write
is carried over by `State.keeps_perform`; the lemmas here establish each part for the commands that do write its group. -/

namespace Sys2Proof.Machine

/-! ## The parts of the invariant -/

/-- The image: EE within R60, decoded words below 2048 (R146), no scan result while RAW (R190; log 35). -/
structure State.ImageOk (s : State) : Prop where
  wf : s.ee.wf = true
  below : s.ee.below 832 = true
  decoded_words : s.eeState = .decoded → ∀ i, 16 ≤ i → i ≤ 831 → (s.ee.read i).toNat < 2048
  raw_clean : s.eeState = .raw → s.eccst = .clean

/-- The frame buffer: FB within R60, and the trailer of a valid frame (R21). -/
structure State.FrameOk (s : State) : Prop where
  wf : s.fb.wf = true
  below : s.fb.below 834 = true
  trailer_parity : s.fbValid = true →
    s.fb.read (s.cfg.trailerBase + 1) = 0 ∨ s.fb.read (s.cfg.trailerBase + 1) = 1

/-- The frame reader's counters (R38). -/
structure State.CountersOk (s : State) : Prop where
  np_le : s.np ≤ 5
  att_le : s.att ≤ 5
  win_le : s.win ≤ 6

/-- The calibration: its arrays within R60, brokenPixels of a valid one (R26, R178). -/
structure State.CalOk (s : State) : Prop where
  memory : calMemoryOk s.cal = true
  broken_pixels : s.calValid = true → brokenPixelsOk s.cal

/-- TF within R60. -/
structure State.TempsOk (s : State) : Prop where
  wf : s.tf.wf = true
  below : s.tf.below 192 = true

/-- The order in which the flags are set (R262, R313, R291, R225). -/
structure State.FlagOrder (s : State) : Prop where
  inited_cal : s.inited = true → s.calValid = true
  cal_image : s.calValid = true → s.eeState ≠ .empty
  ta_cal : s.taValid = true → s.calValid = true
  tf_ta : s.tfValid = true → s.taValid = true

/-- The statuses that go with FAULT = 1: the contract violations, and Halted (R286, R290). -/
def Status.faulting (x : Status) : Prop := x = .addressOutOfRange ∨ x = .fieldTooWide ∨ x = .halted

/-- FAULT and STATUS agree (R286, R290). -/
def State.Settled (s : State) : Prop := s.faulted = true ↔ s.status.faulting

theorem State.Inv.imageOk {s : State} (h : s.Inv) : s.ImageOk := by
  have hm := h.memory
  simp only [State.memoryOk, Bool.and_eq_true] at hm
  obtain ⟨⟨⟨⟨hwf, hbelow⟩, -⟩, -⟩, -⟩ := hm
  exact ⟨hwf, hbelow, h.decoded_words, h.raw_clean⟩

theorem State.Inv.frameOk {s : State} (h : s.Inv) : s.FrameOk := by
  have hm := h.memory
  simp only [State.memoryOk, Bool.and_eq_true] at hm
  obtain ⟨⟨⟨-, hwf, hbelow⟩, -⟩, -⟩ := hm
  exact ⟨hwf, hbelow, h.trailer_parity⟩

theorem State.Inv.countersOk {s : State} (h : s.Inv) : s.CountersOk := ⟨h.np_le, h.att_le, h.win_le⟩

theorem State.Inv.calOk {s : State} (h : s.Inv) : s.CalOk := by
  have hm := h.memory
  simp only [State.memoryOk, Bool.and_eq_true] at hm
  obtain ⟨-, hcal⟩ := hm
  exact ⟨hcal, h.broken_pixels⟩

theorem State.Inv.tempsOk {s : State} (h : s.Inv) : s.TempsOk := by
  have hm := h.memory
  simp only [State.memoryOk, Bool.and_eq_true] at hm
  obtain ⟨⟨-, hwf, hbelow⟩, -⟩ := hm
  exact ⟨hwf, hbelow⟩

theorem State.Inv.flagOrder {s : State} (h : s.Inv) : s.FlagOrder := ⟨h.inited_cal, h.cal_image, h.ta_cal, h.tf_ta⟩

theorem State.Inv.settled {s : State} (h : s.Inv) : s.Settled := h.fault_status

/-- The parts, with FS = IDLE, make up the invariant. -/
theorem State.Inv.of_parts {s : State} (hi : s.ImageOk) (hf : s.FrameOk) (hn : s.CountersOk) (hc : s.CalOk)
    (ht : s.TempsOk) (ho : s.FlagOrder) (hs : s.Settled) (hidle : s.fs = .idle) : s.Inv where
  memory := by
    simp only [State.memoryOk, Bool.and_eq_true]
    exact ⟨⟨⟨⟨hi.wf, hi.below⟩, hf.wf, hf.below⟩, ht.wf, ht.below⟩, hc.memory⟩
  idle := hidle
  np_le := hn.np_le
  att_le := hn.att_le
  win_le := hn.win_le
  inited_cal := ho.inited_cal
  cal_image := ho.cal_image
  ta_cal := ho.ta_cal
  tf_ta := ho.tf_ta
  decoded_words := hi.decoded_words
  raw_clean := hi.raw_clean
  broken_pixels := hc.broken_pixels
  trailer_parity := hf.trailer_parity
  fault_status := hs

/-! ## A part is carried over where its group is kept -/

theorem State.ImageOk.of_keeps {W : List RegGroup} {s t : State} (h : s.ImageOk) (hk : s.Keeps W t)
    (hW : .image ∉ W := by simp) : t.ImageOk := by
  obtain ⟨hee, hstate, hecc⟩ := hk .image hW
  exact ⟨by rw [hee, h.wf], by rw [hee, h.below], by rw [hee, hstate]; exact h.decoded_words,
    by rw [hstate, hecc]; exact h.raw_clean⟩

theorem State.FrameOk.of_keeps {W : List RegGroup} {s t : State} (h : s.FrameOk) (hk : s.Keeps W t)
    (hW : .frame ∉ W := by simp) (hfixed : .fixed ∉ W := by simp) : t.FrameOk := by
  obtain ⟨hfb, hvalid, -⟩ := hk .frame hW
  obtain ⟨-, hcfg, -⟩ := hk .fixed hfixed
  exact ⟨by rw [hfb, h.wf], by rw [hfb, h.below], by rw [hfb, hvalid, hcfg]; exact h.trailer_parity⟩

theorem State.CountersOk.of_keeps {W : List RegGroup} {s t : State} (h : s.CountersOk) (hk : s.Keeps W t)
    (hW : .frame ∉ W := by simp) : t.CountersOk := by
  obtain ⟨-, -, hnp, hatt, hwin, -⟩ := hk .frame hW
  exact ⟨by rw [hnp]; exact h.np_le, by rw [hatt]; exact h.att_le, by rw [hwin]; exact h.win_le⟩

theorem State.CalOk.of_keeps {W : List RegGroup} {s t : State} (h : s.CalOk) (hk : s.Keeps W t)
    (hW : .cal ∉ W := by simp) : t.CalOk := by
  obtain ⟨hcal, hvalid⟩ := hk .cal hW
  exact ⟨by rw [hcal, h.memory], by rw [hcal, hvalid]; exact h.broken_pixels⟩

theorem State.TempsOk.of_keeps {W : List RegGroup} {s t : State} (h : s.TempsOk) (hk : s.Keeps W t)
    (hW : .tf ∉ W := by simp) : t.TempsOk := by
  obtain ⟨htf, -⟩ := hk .tf hW
  exact ⟨by rw [htf, h.wf], by rw [htf, h.below]⟩

theorem State.FlagOrder.of_keeps {W : List RegGroup} {s t : State} (h : s.FlagOrder) (hk : s.Keeps W t)
    (hinited : .inited ∉ W := by simp) (hcal : .cal ∉ W := by simp) (himage : .image ∉ W := by simp)
    (hta : .ta ∉ W := by simp) (htf : .tf ∉ W := by simp) : t.FlagOrder := by
  obtain ⟨-, hcal⟩ := hk .cal hcal
  obtain ⟨-, hstate, -⟩ := hk .image himage
  obtain ⟨-, hta⟩ := hk .ta hta
  obtain ⟨-, htf⟩ := hk .tf htf
  have hinited : t.inited = s.inited := hk .inited hinited
  exact ⟨by rw [hinited, hcal]; exact h.inited_cal, by rw [hcal, hstate]; exact h.cal_image,
    by rw [hta, hcal]; exact h.ta_cal, by rw [htf, hta]; exact h.tf_ta⟩

/-! ## The image -/

theorem hdec_lt (c : Config) (w : Word) : (hdec c w).1.toNat < 2048 := by
  have hle : ((correct c w).1 &&& Config.dataMask).toNat ≤ Config.dataMask.toNat := by
    rw [BitVec.toNat_and]
    exact Nat.and_le_right
  exact Nat.lt_of_le_of_lt hle (by decide)

/-- The scan masks every word to 11 bits (R146, R150). -/
theorem State.imageOk_scan (s : State) : s.scan.ImageOk where
  wf := by rw [State.scan_ee, wf_scanImage]
  below := by rw [State.scan_ee, below_scanImage]
  decoded_words := fun _ i hlo hhi => by
    have hscanned : scanned i = true := scanned_iff.2 ⟨hlo, hhi⟩
    rw [State.scan_ee, read_scanImage, if_pos (by omega), scanWord, if_pos hscanned]
    exact hdec_lt _ _
  raw_clean := fun h => by simp at h

theorem State.ImageOk.capture {s : State} (h : s.ImageOk) : s.capture.ImageOk := by
  obtain ⟨-, hc⟩ | ⟨ws, -, hlen, hc⟩ := s.capture_cases <;> rw [hc]
  · exact ⟨h.wf, h.below, nofun, nofun⟩
  · exact ⟨Memory.wf_ofList ws, Memory.below_ofList hlen.le, nofun, fun _ => rfl⟩

theorem State.imageOk_prepared (s : State) : s.prepared.ImageOk :=
  s.dumped.imageOk_scan.of_keeps (State.keeps_warnEcc _)

theorem State.ImageOk.initialise {s : State} (h : s.ImageOk) : s.initialise.ImageOk := by
  have hasked := h.of_keeps (s.keeps_asked (.init s.cfg.freqKhz))
  obtain hi | ⟨-, hi⟩ | ⟨-, hi⟩ | ⟨-, x, -, hi⟩ | ⟨-, -, hi⟩ := s.initialise_cases <;> rw [hi]
  · exact hasked.of_keeps (State.keeps_raise _ _)
  · exact hasked.capture
  · exact s.dumped.imageOk_scan.of_keeps (State.keeps_raise _ _)
  · exact s.imageOk_prepared.of_keeps (State.keeps_raise _ _)
  · exact (s.imageOk_prepared.of_keeps s.prepared.keeps_commitCal).of_keeps (State.keeps_configure _)

theorem State.ImageOk.perform {s : State} (h : s.ImageOk) (i : Instr) : (s.perform i).ImageOk := by
  cases i with
  | eccs => exact s.imageOk_scan
  | eeld => exact h.capture
  | init => exact h.initialise
  | _ => exact h.of_keeps (s.keeps_perform _)

/-! ## The frame buffer and the counters -/

/-- A step of the machine keeps FB in bounds; the trailer it writes holds a parity (R21, R198 to R201). -/
theorem State.FrameOk.frStep {s : State} (h : s.FrameOk) (hinvalid : s.fbValid = false) : s.frStep.FrameOk := by
  have htrailer : s.cfg.trailerBase + 1 < 834 := by
    have := s.cfg.trailer.isLt
    unfold Config.trailerBase
    omega
  obtain ⟨hfb, hvalid⟩ | ⟨k, ws, hk, hfb, hvalid⟩ | ⟨w, -, -, hfb⟩ := s.frStep_fb_cases
  · exact ⟨by rw [hfb, h.wf], by rw [hfb, h.below], fun hv => by simp [hvalid, hinvalid] at hv⟩
  · exact ⟨by rw [hfb, Memory.wf_writeList h.wf], by rw [hfb, Memory.below_writeList (by omega) h.below],
      fun hv => by simp [hvalid, hinvalid] at hv⟩
  · have hwf := Memory.wf_write (i := s.cfg.trailerBase) (v := w) h.wf
    refine ⟨by rw [hfb, Memory.wf_write hwf],
      by rw [hfb, Memory.below_write htrailer (Memory.below_write (by omega) h.below)], fun _ => ?_⟩
    rw [hfb, State.frStep_cfg, Memory.read_write hwf, if_pos rfl]
    cases s.subp with
    | false => exact .inl rfl
    | true => exact .inr rfl

theorem State.FrameOk.acquire {s : State} (h : s.FrameOk) : s.acquire.FrameOk := by
  have hstart : s.frStart.Acquiring ∧ s.frStart.FrameOk := ⟨s.acquiring_frStart, h.wf, h.below, nofun⟩
  have hstep : ∀ u : State, u.fs ≠ .idle → u.Acquiring ∧ u.FrameOk → u.frStep.Acquiring ∧ u.frStep.FrameOk :=
    fun u hi ⟨ha, hf⟩ => ⟨(ha.frStep hi).1, hf.frStep (ha.invalid hi)⟩
  exact (State.frRun_induct hstep frMaxSteps hstart).2

theorem State.countersOk_acquire (s : State) : s.acquire.CountersOk := by
  obtain ⟨ha, -⟩ := s.acquire_ends
  exact ⟨ha.np_le, ha.att_le, ha.win_le⟩

theorem State.FrameOk.perform {s : State} (h : s.FrameOk) (i : Instr) : (s.perform i).FrameOk := by
  cases i with
  | frd => exact h.acquire
  | rdframe =>
    show s.readFrame.FrameOk
    obtain ⟨-, hr⟩ | ⟨-, hr⟩ := s.readFrame_cases <;> rw [hr]
    · exact h.acquire.of_keeps s.acquire.keeps_ambient
    · exact h.acquire
  | _ => exact h.of_keeps (s.keeps_perform _)

theorem State.CountersOk.perform {s : State} (h : s.CountersOk) (i : Instr) : (s.perform i).CountersOk := by
  cases i with
  | frd => exact s.countersOk_acquire
  | rdframe =>
    show s.readFrame.CountersOk
    obtain ⟨-, hr⟩ | ⟨-, hr⟩ := s.readFrame_cases <;> rw [hr]
    · exact s.countersOk_acquire.of_keeps s.acquire.keeps_ambient
    · exact s.countersOk_acquire
  | _ => exact h.of_keeps (s.keeps_perform _)

/-! ## The calibration -/

theorem calMemoryOk_extractAll (c : Config) (ee : Memory Word) (d : Nat) : calMemoryOk (extractAll c ee d) = true := by
  have hct : (extractAll c ee d).ct.below 8 = true := Memory.below_ofList (by simp [Config.ctFixed])
  simp only [calMemoryOk, Bool.and_eq_true]
  exact ⟨⟨⟨⟨⟨⟨⟨Memory.wf_ofFn _ _, Memory.below_ofFn _ _⟩, Memory.wf_ofList _, hct⟩, Memory.wf_ofFn _ _,
    Memory.below_ofFn _ _⟩, Memory.wf_ofFn _ _, Memory.below_ofFn _ _⟩, Memory.wf_ofFn _ _, Memory.below_ofFn _ _⟩,
    Memory.wf_ofFn _ _, Memory.below_ofFn _ _⟩, Memory.wf_ofFn _ _, Memory.below_ofFn _ _⟩

/-- The broken pixels are pixels, in increasing order (R177). -/
theorem brokenList_pairwise (c : Config) (ee : Memory Word) : (brokenList c ee).Pairwise (· < ·) := by
  unfold brokenList
  exact List.pairwise_lt_range.filter _

theorem lt_of_mem_brokenList {c : Config} {ee : Memory Word} {p : Nat} (h : p ∈ brokenList c ee) : p < 192 := by
  unfold brokenList at h
  exact List.mem_range.1 (List.mem_filter.1 h).1

/-- At most two broken pixels make well-formed entries (R26, R177, R178). -/
theorem brokenPixelsOk_extractAll {c : Config} {ee : Memory Word} (d : Nat) (h : (brokenList c ee).length ≤ 2) :
    brokenPixelsOk (extractAll c ee d) := by
  have hsorted := brokenList_pairwise c ee
  have hlt := fun p => lt_of_mem_brokenList (c := c) (ee := ee) (p := p)
  have h0 : (extractAll c ee d).broken0 = brokenEntry c ee 0 := rfl
  have h1 : (extractAll c ee d).broken1 = brokenEntry c ee 1 := rfl
  unfold brokenPixelsOk brokenEntryOk
  rw [h0, h1]
  unfold brokenEntry
  match hL : brokenList c ee with
  | [] => simp [Config.sentinel]
  | [p] =>
    rw [hL] at hlt
    have := hlt p (by simp)
    simp [Config.sentinel]
    omega
  | [p, q] =>
    rw [hL] at hlt hsorted
    have := hlt p (by simp)
    have := hlt q (by simp)
    simp at hsorted
    simp
    omega
  | _ :: _ :: _ :: _ =>
    rw [hL] at h
    simp at h

theorem length_brokenList_of_calxFailure {c : Config} {ee : Memory Word} (h : calxFailure c ee = none) :
    (brokenList c ee).length ≤ 2 := by
  unfold calxFailure at h
  split at h
  · cases h
  · obtain ⟨-, h⟩ := Option.or_eq_none_iff.1 h
    split at h
    · cases h
    · omega

theorem State.calOk_commitCal {s : State} (h : calxFailure s.cfg s.ee = none) : s.commitCal.CalOk :=
  ⟨calMemoryOk_extractAll _ _ _, fun _ => brokenPixelsOk_extractAll _ (length_brokenList_of_calxFailure h)⟩

theorem State.CalOk.perform {s : State} (h : s.CalOk) (i : Instr) : (s.perform i).CalOk := by
  cases i with
  | calx =>
    show s.extract.CalOk
    obtain ⟨x, -, he⟩ | ⟨hx, he⟩ := s.extract_cases <;> rw [he]
    · exact h.of_keeps (s.keeps_raise x)
    · exact State.calOk_commitCal hx
  | init =>
    show s.initialise.CalOk
    have hdumped := h.of_keeps s.keeps_dumped
    have hprepared := h.of_keeps s.keeps_prepared
    obtain hi | ⟨-, hi⟩ | ⟨-, hi⟩ | ⟨-, x, -, hi⟩ | ⟨-, hx, hi⟩ := s.initialise_cases <;> rw [hi]
    · exact (h.of_keeps (s.keeps_asked _)).of_keeps (State.keeps_raise _ _)
    · exact hdumped
    · exact (hdumped.of_keeps s.dumped.keeps_scan).of_keeps (State.keeps_raise _ _)
    · exact hprepared.of_keeps (State.keeps_raise _ _)
    · exact (State.calOk_commitCal hx).of_keeps (State.keeps_configure _)
  | _ => exact h.of_keeps (s.keeps_perform _)

/-! ## The temperatures -/

theorem State.tempsOk_calculate (s : State) (eps tr : FVal) : (s.calculate eps tr).TempsOk := by
  rw [State.calculate]
  unfold frameTemps
  exact ⟨Memory.wf_ofFn _ _, Memory.below_ofFn _ _⟩

/-- BPFIX writes pixels only: the entries of a valid brokenPixels that are no sentinel (R178, R245). -/
theorem State.TempsOk.repair {s : State} (h : s.TempsOk) (hb : brokenPixelsOk s.cal) : s.repair.TempsOk := by
  have hpixel : ∀ {b : Int} (tf : Memory FWord) free, brokenEntryOk b → b ≠ Config.sentinel →
      tf.wf = true ∧ tf.below 192 = true →
      (repairPixel s.cfg.num tf b.toNat free).wf = true ∧ (repairPixel s.cfg.num tf b.toNat free).below 192 = true := by
    intro b tf free hok hne ⟨hwf, hbelow⟩
    obtain ⟨hlo, hhi⟩ : 0 ≤ b ∧ b < 192 := hok.resolve_right hne
    exact ⟨Memory.wf_write hwf, Memory.below_write (by omega) hbelow⟩
  obtain ⟨h0, h1, -, -⟩ := hb
  suffices hr : s.repair.tf.wf = true ∧ s.repair.tf.below 192 = true from ⟨hr.1, hr.2⟩
  rw [State.repair_tf]
  unfold repairFrame
  split
  · exact ⟨h.wf, h.below⟩
  · next hne0 =>
    have hfirst := hpixel s.tf (s.free 0) h0 hne0 ⟨h.wf, h.below⟩
    split
    · exact hfirst
    · next hne1 => exact hpixel _ _ h1 hne1 hfirst

theorem State.TempsOk.perform {s : State} (h : s.TempsOk) (hc : s.CalOk) {i : Instr} (hpre : s.admits i = true) :
    (s.perform i).TempsOk := by
  cases i with
  | calcto eps tr => exact s.tempsOk_calculate _ _
  | bpfix =>
    simp only [State.admits, State.mayRepair, Bool.and_eq_true] at hpre
    exact h.repair (hc.broken_pixels hpre.2)
  | calct =>
    simp only [State.admits, State.mayCalculate, Bool.and_eq_true] at hpre
    exact (s.tempsOk_calculate _ _).repair (hc.broken_pixels hpre.1.1)
  | _ => exact h.of_keeps (s.keeps_perform _)

/-! ## The order of the flags -/

/-- The flags stay in order where a valid calibration is kept and TF_VALID still needs TA_VALID. -/
theorem State.FlagOrder.of_calValid {W : List RegGroup} {s t : State} (h : s.FlagOrder) (hvalid : s.calValid = true)
    (hk : s.Keeps W t) (htf_ta : t.tfValid = true → t.taValid = true) (hcal : .cal ∉ W := by simp)
    (himage : .image ∉ W := by simp) : t.FlagOrder := by
  obtain ⟨-, hcal⟩ := hk .cal hcal
  obtain ⟨-, hstate, -⟩ := hk .image himage
  have hvalid' : t.calValid = true := hcal.trans hvalid
  exact ⟨fun _ => hvalid', fun _ => hstate ▸ h.cal_image hvalid, fun _ => hvalid', htf_ta⟩

/-- Without a valid calibration no other flag of the order is set. -/
theorem State.FlagOrder.of_not_calValid {W : List RegGroup} {s t : State} (h : s.FlagOrder) (hvalid : s.calValid = false)
    (hk : s.Keeps W t) (hinited : .inited ∉ W := by simp) (hcal : .cal ∉ W := by simp) (hta : .ta ∉ W := by simp)
    (htf : .tf ∉ W := by simp) : t.FlagOrder := by
  obtain ⟨-, hcal⟩ := hk .cal hcal
  obtain ⟨-, hta⟩ := hk .ta hta
  obtain ⟨-, htf⟩ := hk .tf htf
  have hinited : t.inited = s.inited := hk .inited hinited
  refine ⟨?_, fun ht => ?_, ?_, ?_⟩
  · rw [hinited, hcal]; exact h.inited_cal
  · simp [hcal, hvalid] at ht
  · rw [hta, hcal]; exact h.ta_cal
  · rw [htf, hta]; exact h.tf_ta

/-- A commit from a readable image sets CAL_VALID after the image's flag and before the others (R180). -/
theorem State.FlagOrder.commitCal {s : State} (h : s.FlagOrder) (himage : s.eeState ≠ .empty) : s.commitCal.FlagOrder :=
  ⟨fun _ => rfl, fun _ => himage, fun _ => rfl, h.tf_ta⟩

/-- INITED is set on top of a valid calibration (R262). -/
theorem State.FlagOrder.configure {s : State} (h : s.FlagOrder) (hcal : s.calValid = true) : s.configure.FlagOrder := by
  rw [State.configure, State.runCfg_frame]
  exact ⟨fun _ => hcal, h.cal_image, h.ta_cal, h.tf_ta⟩

theorem State.FlagOrder.initialise {s : State} (h : s.FlagOrder) (hcal : s.calValid = false) :
    s.initialise.FlagOrder := by
  have hdumped := s.keeps_dumped
  have hprepared := s.keeps_prepared
  obtain hi | ⟨-, hi⟩ | ⟨-, hi⟩ | ⟨-, x, -, hi⟩ | ⟨-, -, hi⟩ := s.initialise_cases <;> rw [hi]
  · exact h.of_not_calValid hcal ((s.keeps_asked _).trans (State.keeps_raise _ _) (X := [.bus, .fault]))
  · exact h.of_not_calValid hcal hdumped
  · exact h.of_not_calValid hcal ((hdumped.trans s.dumped.keeps_scan (X := [.image, .bus])).trans
      (State.keeps_raise _ _) (X := [.image, .bus, .fault]))
  · exact h.of_not_calValid hcal (hprepared.trans (State.keeps_raise _ _) (X := [.image, .bus, .warn, .fault]))
  · have hstate : s.prepared.eeState ≠ .empty := by simp [State.prepared]
    exact ((h.of_not_calValid hcal hprepared).commitCal hstate).configure rfl

theorem State.FlagOrder.perform {s : State} (h : s.FlagOrder) {i : Instr} (hpre : s.admits i = true) :
    (s.perform i).FlagOrder := by
  cases i with
  | eccs => exact ⟨by simpa [State.perform] using h.inited_cal, fun _ => by simp [State.perform],
      by simpa [State.perform] using h.ta_cal, by simpa [State.perform] using h.tf_ta⟩
  | calx =>
    simp only [State.admits, State.mayExtract, Bool.and_eq_true, decide_eq_true_eq] at hpre
    show s.extract.FlagOrder
    obtain ⟨x, -, he⟩ | ⟨-, he⟩ := s.extract_cases <;> rw [he]
    · exact h.of_keeps (s.keeps_raise x)
    · exact h.commitCal hpre.1
  | eeld =>
    simp only [State.admits, State.mayLoad, Bool.not_eq_true'] at hpre
    exact h.of_not_calValid hpre s.keeps_capture
  | amb =>
    simp only [State.admits, State.mayCompensate, Bool.and_eq_true] at hpre
    exact h.of_calValid hpre.2 s.keeps_ambient fun _ => rfl
  | calcto eps tr =>
    simp only [State.admits, State.mayCompensate, Bool.and_eq_true] at hpre
    exact h.of_calValid hpre.2 (s.keeps_calculate _ _) fun _ => rfl
  | bpfix =>
    simp only [State.admits, State.mayRepair, Bool.and_eq_true] at hpre
    exact h.of_calValid hpre.2 s.keeps_repair h.tf_ta
  | init =>
    simp only [State.admits, State.mayInit, Bool.and_eq_true, Bool.not_eq_true'] at hpre
    exact h.initialise hpre.2
  | rdframe =>
    show s.readFrame.FlagOrder
    have hacquired := h.of_keeps s.keeps_acquire
    have hvalid := (s.keeps_acquire .cal (by simp)).2.trans hpre
    obtain ⟨-, hr⟩ | ⟨-, hr⟩ := s.readFrame_cases <;> rw [hr]
    · exact hacquired.of_calValid hvalid s.acquire.keeps_ambient fun _ => rfl
    · exact hacquired
  | calct =>
    simp only [State.admits, State.mayCalculate, Bool.and_eq_true] at hpre
    exact h.of_calValid hpre.1.1 s.keeps_calculateTemps fun _ => rfl
  | _ => exact h.of_keeps (s.keeps_perform _)

/-! ## FAULT and the last status -/

/-- With FAULT = 0 the last status is none of those that go with FAULT. -/
theorem State.Settled.of_clear {s : State} (hf : s.faulted = false) (hs : ¬ s.status.faulting) : s.Settled := by
  simp [State.Settled, hf, hs]

theorem State.settled_raise {s : State} (hf : s.faulted = false) {x : Status} (hx : x ≠ .halted) :
    (s.raise x).Settled := by
  simp [State.Settled, Status.faulting, hf, hx, Status.contract_iff]

theorem State.settled_extracted {s : State} (hf : s.faulted = false) {v : Option Status} (z : Int)
    (hv : ∀ x, v = some x → x.contract = true) : (s.extracted v z).Settled := by
  obtain ⟨x, hx, he⟩ | ⟨-, he⟩ := s.extracted_cases v z <;> rw [he]
  · refine State.settled_raise hf ?_
    rintro rfl
    exact absurd (hv _ hx) (by decide)
  · exact .of_clear hf (by simp [Status.faulting])

/-- A decode is reported by a status that leaves FAULT alone (R147, R150). -/
theorem EccStatus.not_faulting_status (e : EccStatus) : ¬ e.status.faulting := by
  cases e <;> simp [EccStatus.status, Status.faulting]

theorem calxFailure_ne_halted {c : Config} {ee : Memory Word} {x : Status} (h : calxFailure c ee = some x) :
    x ≠ .halted := by
  rintro rfl
  simpa [Status.contract] using calxFailure_eq_some h

theorem State.settled_capture {s : State} (hf : s.faulted = false) : s.capture.Settled := by
  obtain ⟨-, h⟩ | ⟨ws, -, -, h⟩ := s.capture_cases <;> rw [h] <;>
    exact .of_clear (by simp [hf]) (by simp [Status.faulting])

theorem State.not_faulting_acquire {s : State} (h : ¬ s.status.faulting) : ¬ s.acquire.status.faulting := by
  have hstep : ∀ u : State, u.fs ≠ .idle → ¬ u.status.faulting → ¬ u.frStep.status.faulting := fun u _ hu => by
    obtain hs | hs | hs | hs := u.frStep_status_cases <;> rw [hs]
    · exact hu
    · simp [Status.faulting]
    · simp [Status.faulting]
    · simp [Status.faulting]
  exact State.frRun_induct hstep frMaxSteps h

theorem State.settled_initialise {s : State} (hf : s.faulted = false) : s.initialise.Settled := by
  have hdumped : s.dumped.faulted = false := (s.keeps_dumped .fault (by simp)).trans hf
  have hprepared : s.prepared.faulted = false := (s.keeps_prepared .fault (by simp)).trans hf
  obtain h | ⟨-, h⟩ | ⟨-, h⟩ | ⟨-, x, hx, h⟩ | ⟨-, -, h⟩ := s.initialise_cases <;> rw [h]
  · exact State.settled_raise hf (by simp)
  · exact State.settled_capture hf
  · exact State.settled_raise (by simpa using hdumped) (by simp)
  · exact State.settled_raise hprepared (calxFailure_ne_halted hx)
  · refine .of_clear ?_ (by simp [State.configure, Status.faulting])
    exact (s.prepared.commitCal.keeps_configure .fault (by simp)).trans hprepared

theorem State.Settled.perform {s : State} (h : s.Settled) (hf : s.faulted = false) (i : Instr) :
    (s.perform i).Settled := by
  have hclear : ¬ s.status.faulting := fun hs => by simp [h.2 hs] at hf
  have hkept : RegGroup.fault ∉ footprint i → (s.perform i).faulted = false := fun hi =>
    (s.keeps_perform i .fault hi).trans hf
  have hacquired : ¬ s.acquire.status.faulting := State.not_faulting_acquire hclear
  cases i with
  | xraw d => exact State.settled_extracted hf _ fun x => addressViolation_contract
  | xsgl sgn d => exact State.settled_extracted hf _ fun x => addressViolation_contract
  | xdbl sgn hi lo => exact State.settled_extracted hf _ fun x => dualViolation_contract
  | sext w =>
    refine .of_clear (hkept (by simp)) ?_
    obtain ⟨z, hp⟩ | hp := s.perform_sext_cases w <;> simp [hp, Status.faulting]
  | scmul e =>
    refine .of_clear (hkept (by simp)) ?_
    obtain ⟨z, hp⟩ | hp := s.perform_scmul_cases e <;> simp [hp, Status.faulting]
  | eccw w => exact .of_clear hf (EccStatus.not_faulting_status _)
  | eccs => exact .of_clear (hkept (by simp)) (by simpa [State.perform] using EccStatus.not_faulting_status _)
  | calx =>
    show s.extract.Settled
    obtain ⟨x, hx, he⟩ | ⟨-, he⟩ := s.extract_cases <;> rw [he]
    · exact State.settled_raise hf (calxFailure_ne_halted hx)
    · exact .of_clear hf (by simp [Status.faulting])
  | eeld => exact State.settled_capture hf
  | frd => exact .of_clear (hkept (by simp)) hacquired
  | init => exact State.settled_initialise hf
  | rdframe =>
    refine .of_clear (hkept (by simp)) ?_
    show ¬ s.readFrame.status.faulting
    obtain ⟨-, hr⟩ | ⟨-, hr⟩ := s.readFrame_cases <;> rw [hr]
    · simp [Status.faulting]
    · exact hacquired
  | gett k =>
    refine .of_clear (hkept (by simp)) ?_
    obtain ⟨w, hp⟩ | hp := s.perform_gett_cases k <;> simp [hp, Status.faulting]
  | _ => exact .of_clear (hkept (by simp)) (by simp [State.perform, State.calculateTemps, Status.faulting])

/-! ## The invariant step by step -/

/-- The pseudocode of a command keeps the invariant. -/
theorem State.Inv.perform {s : State} (h : s.Inv) (hf : s.faulted = false) {i : Instr} (hpre : s.admits i = true) :
    (s.perform i).Inv :=
  .of_parts (h.imageOk.perform i) (h.frameOk.perform i) (h.countersOk.perform i) (h.calOk.perform i)
    (h.tempsOk.perform h.calOk hpre) (h.flagOrder.perform hpre) (h.settled.perform hf i)
    ((s.fs_perform i).elim (fun hs => hs.trans h.idle) id)

/-- A refusal keeps the invariant where its status agrees with FAULT (R285). -/
theorem State.Inv.refuse {s : State} (h : s.Inv) {x : Status} (hx : s.faulted = true ↔ x.faulting) :
    (s.refuse x).Inv :=
  .of_parts (h.imageOk.of_keeps (s.keeps_refuse x)) (h.frameOk.of_keeps (s.keeps_refuse x))
    (h.countersOk.of_keeps (s.keeps_refuse x)) (h.calOk.of_keeps (s.keeps_refuse x))
    (h.tempsOk.of_keeps (s.keeps_refuse x)) (h.flagOrder.of_keeps (s.keeps_refuse x)) hx h.idle

theorem State.Inv.refuse_halted {s : State} (h : s.Inv) (hf : s.faulted = true) : (s.refuse .halted).Inv :=
  h.refuse (by simp [hf, Status.faulting])

theorem State.Inv.refuse_check {s : State} (h : s.Inv) (hf : s.faulted = false) {x : Status}
    (hx : x = .illegalCommand ∨ x = .badState) : (s.refuse x).Inv :=
  h.refuse (by obtain rfl | rfl := hx <;> simp [hf, Status.faulting])

theorem State.Inv.exec {s t : State} {i : Instr} (h : s.Inv) (he : exec i s = .next t) : t.Inv := by
  obtain ⟨hf, rfl⟩ | ⟨hf, x, hx, rfl⟩ | ⟨hf, -, hpre, rfl⟩ := exec_cases he
  · exact h.refuse_halted hf
  · exact h.refuse_check hf hx
  · exact h.perform hf hpre

theorem State.Inv.taken {s : State} (h : s.Inv) : s.taken.Inv := { h with }

theorem State.inv_reset : State.reset.Inv where
  memory := by decide
  idle := rfl
  np_le := Nat.zero_le 5
  att_le := Nat.zero_le 5
  win_le := Nat.zero_le 6
  inited_cal := nofun
  cal_image := nofun
  ta_cal := nofun
  tf_ta := nofun
  decoded_words := nofun
  raw_clean := nofun
  broken_pixels := nofun
  trailer_parity := nofun
  fault_status := by simp [State.reset]

/-- The reset input leaves every register the invariant speaks of as `State.reset` has it (R310). -/
theorem State.inv_hostReset (s : State) : s.hostReset.Inv := { State.inv_reset with trailer_parity := nofun }

end Sys2Proof.Machine

namespace Sys2Proof

open Machine

/-- Settles O51. -/
theorem resetMeetsInvariant : Obligations.ResetMeetsInvariant := State.inv_reset

/-- Settles O50: a step waits, resets, refuses or performs, and each keeps the invariant. -/
theorem stepKeepsInvariant : Obligations.StepKeepsInvariant := by
  intro s t h hstep
  obtain ⟨-, rfl⟩ | ⟨more, -, rfl⟩ | rfl | ⟨i, hi⟩ := step_cases hstep
  · exact h
  · exact s.taken.inv_hostReset
  · obtain ⟨hf, ha⟩ | ⟨hf, ha⟩ := s.taken.answerIllegal_cases <;> rw [ha]
    · exact h.taken.refuse_halted hf
    · exact h.taken.refuse_check hf (.inl rfl)
  · exact h.taken.exec hi

end Sys2Proof
end

section
/-! The read-only ports (O56). A port is a sum of registers times powers of two; `getLsbD_ofNat_eq` and
`extractLsb'_ofNat_toNat` turn the bits of such a sum into division and remainder, where the registers' bounds decide. -/

namespace Sys2Proof.Machine

theorem getLsbD_ofNat_eq {w n i : Nat} {b : Bool} (hi : i < w) (h : n / 2 ^ i % 2 = b.toNat) :
    (BitVec.ofNat w n).getLsbD i = b := by
  rw [BitVec.getLsbD_ofNat, Nat.testBit_eq_decide_div_mod_eq, h]
  cases b <;> simp [hi]

theorem extractLsb'_ofNat_toNat {w n start len : Nat} (h : start + len ≤ w) :
    ((BitVec.ofNat w n).extractLsb' start len).toNat = n / 2 ^ start % 2 ^ len := by
  rw [BitVec.extractLsb'_toNat, BitVec.toNat_ofNat, Nat.shiftRight_eq_div_pow,
    ← Nat.add_sub_cancel' (show start ≤ w by omega), Nat.pow_add, Nat.mod_mul_right_div_self]
  exact Nat.mod_mod_of_dvd _ (Nat.pow_dvd_pow 2 (by omega))

theorem EeState.code_le (e : EeState) : e.code ≤ 2 := by cases e <;> decide
theorem EccStatus.code_le (e : EccStatus) : e.code ≤ 2 := by cases e <;> decide
theorem FrState.code_le (f : FrState) : f.code ≤ 5 := by cases f <;> decide

theorem State.flagsPort_bits (s : State) :
    s.flagsPort.getLsbD 0 = s.inited ∧ (s.flagsPort.extractLsb' 1 2).toNat = s.eeState.code
      ∧ s.flagsPort.getLsbD 3 = s.calValid ∧ s.flagsPort.getLsbD 4 = s.fbValid ∧ s.flagsPort.getLsbD 5 = s.tfValid
      ∧ s.flagsPort.getLsbD 6 = s.taValid ∧ s.flagsPort.getLsbD 7 = s.faulted := by
  have := EeState.code_le s.eeState
  have := s.inited.toNat_le
  have := s.calValid.toNat_le
  have := s.fbValid.toNat_le
  have := s.tfValid.toNat_le
  have := s.taValid.toNat_le
  have := s.faulted.toNat_le
  unfold State.flagsPort
  refine ⟨getLsbD_ofNat_eq (by decide) ?_, ?_, getLsbD_ofNat_eq (by decide) ?_, getLsbD_ofNat_eq (by decide) ?_,
    getLsbD_ofNat_eq (by decide) ?_, getLsbD_ofNat_eq (by decide) ?_, getLsbD_ofNat_eq (by decide) ?_⟩
  case refine_2 => rw [extractLsb'_ofNat_toNat (by decide)]; omega
  all_goals omega

theorem State.csr2Port_bits (s : State) :
    (s.csr2Port.extractLsb' 0 2).toNat = s.eccst.code ∧ s.csr2Port.getLsbD 2 = s.wEcc
      ∧ s.csr2Port.getLsbD 3 = s.wCfg := by
  have := EccStatus.code_le s.eccst
  have := s.wEcc.toNat_le
  have := s.wCfg.toNat_le
  unfold State.csr2Port
  refine ⟨?_, getLsbD_ofNat_eq (by decide) ?_, getLsbD_ofNat_eq (by decide) ?_⟩
  case refine_1 => rw [extractLsb'_ofNat_toNat (by decide)]; omega
  all_goals omega

theorem State.csr3Port_bits {s : State} (hnp : s.np ≤ 5) (hatt : s.att ≤ 5) (hwin : s.win ≤ 6) :
    (s.csr3Port.extractLsb' 0 3).toNat = s.fs.code ∧ (s.csr3Port.extractLsb' 3 3).toNat = s.np
      ∧ (s.csr3Port.extractLsb' 6 3).toNat = s.att ∧ (s.csr3Port.extractLsb' 9 3).toNat = s.win
      ∧ s.csr3Port.getLsbD 12 = s.subp := by
  have := FrState.code_le s.fs
  have := s.subp.toNat_le
  unfold State.csr3Port
  refine ⟨?_, ?_, ?_, ?_, getLsbD_ofNat_eq (by decide) (by omega)⟩ <;> rw [extractLsb'_ofNat_toNat (by decide)] <;> omega

end Sys2Proof.Machine

namespace Sys2Proof

open Machine

/-- Settles O56: the bits of each port, and the numbers by evaluation. -/
theorem portsShowTheRegisters : Obligations.PortsShowTheRegisters := by
  refine ⟨rfl, rfl, rfl, fun s => ?_⟩
  obtain ⟨hinited, hee, hcal, hfb, htf, hta, hfault⟩ := State.flagsPort_bits s
  obtain ⟨hecc, hwEcc, hwCfg⟩ := State.csr2Port_bits s
  refine ⟨rfl, fun x hx => ?_, rfl, hinited, hee, hcal, hfb, htf, hta, hfault, hecc, hwEcc, hwCfg, State.csr3Port_bits⟩
  rw [State.frPort, hx, FWord.port_num]

end Sys2Proof
end

section
/-! The requests of a command (O55) and the end it comes to at an err answer (O44). `State.Issues` counts the new requests and
says what each is; `State.EndsAtErr` says that a run stops where the transport's first err answer is used. Each is proved
for the capture, the acquisition and INIT's stages, and then holds of every command: the others leave the bus alone. -/

namespace Sys2Proof.Machine

/-! ## Requests and answers -/

/-- A request has no words exactly when its answer is err, however many words it asks for (R62). -/
theorem State.wordsAnswered_eq_none_iff {s : State} {n : Nat} : s.wordsAnswered n = none ↔ s.nextAnswer = .err := by
  unfold State.wordsAnswered
  cases s.nextAnswer <;> simp

@[simp] theorem State.polled_script (s : State) (w : Word) : (s.polled w).script = s.script := by
  obtain ⟨-, h⟩ | ⟨-, -, h⟩ | ⟨-, -, h⟩ := s.polled_cases w <;> simp [h]

@[simp] theorem State.repolled_script (s : State) (w : Word) : (s.repolled w).script = s.script := by
  obtain ⟨-, h⟩ | ⟨-, -, h⟩ | ⟨-, -, h⟩ := s.repolled_cases w <;> simp [h]

/-- Every step of the frame reader that is taken uses one answer (R195). -/
theorem State.frStep_script {s : State} (h : s.fs ≠ .idle) : s.frStep.script = s.script.tail := by
  obtain ⟨hi, -⟩ | ⟨-, hs⟩ | ⟨ws, -, -, hs⟩ | ⟨-, -, hs⟩ | ⟨ws, -, -, -, hs⟩ | ⟨ws, -, -, -, hs⟩ | ⟨ws, -, -, hs⟩
    | ⟨ws, -, -, hs⟩ := s.frStep_cases
  · exact absurd hi h
  · rw [hs]; rfl
  · rw [hs]; simp
  · rw [hs]; rfl
  · rw [hs]; rfl
  · rw [hs]; rfl
  · rw [hs]; simp
  · rw [hs]; rfl

/-- A step of the frame reader that is answered err ends the acquisition (R64, R195). -/
theorem State.frStep_of_err {s : State} (h : s.fs ≠ .idle) (herr : s.nextAnswer = .err) :
    s.frStep = (s.asked s.frRequest).busFailed := by
  have hnone : ∀ n, s.wordsAnswered n = none := fun n => State.wordsAnswered_eq_none_iff.2 herr
  obtain ⟨hi, -⟩ | ⟨-, hs⟩ | ⟨ws, -, hw, -⟩ | ⟨-, hw, -⟩ | ⟨ws, -, -, hw, -⟩ | ⟨ws, -, -, hw, -⟩ | ⟨ws, -, hw, -⟩
    | ⟨ws, -, hw, -⟩ := s.frStep_cases
  · exact absurd hi h
  · exact hs
  all_goals simp [hnone] at hw

/-- The state once CFG_SEQ has asked for the register of a step (R266). -/
def State.cfgRead (s : State) (m : Rmw) : State := s.asked (.read s.cfg.sa m.reg 1)

/-- The state once CFG_SEQ has written a step's register, whose read gave v (R266). -/
def State.cfgWritten (s : State) (m : Rmw) (v : Word) : State :=
  (s.cfgRead m).asked (.write s.cfg.sa m.reg (Spec.rmwValue m v))

/-- Everything CFG_SEQ can do from a step on: the step's read fails, its write fails, or the steps after it follow (R266). -/
theorem State.runCfg_cons_cases (m : Rmw) (rest : List Rmw) (s : State) :
    (s.nextAnswer = .err ∧ State.runCfg (m :: rest) s = (s.cfgRead m).warnCfg)
    ∨ (s.nextAnswer ≠ .err ∧ (s.cfgRead m).nextAnswer = .err
        ∧ ∃ v, State.runCfg (m :: rest) s = (s.cfgWritten m v).warnCfg)
    ∨ (s.nextAnswer ≠ .err ∧ (s.cfgRead m).nextAnswer ≠ .err
        ∧ ∃ v, State.runCfg (m :: rest) s = State.runCfg rest (s.cfgWritten m v)) := by
  have hread : s.nextAnswer = .err ↔ s.wordsAnswered 1 = none := State.wordsAnswered_eq_none_iff.symm
  have hwrite : (s.cfgRead m).nextAnswer = .err ↔ (s.cfgRead m).wordsAnswered 0 = none :=
    State.wordsAnswered_eq_none_iff.symm
  rw [State.runCfg, State.busRead, Ne, Ne, hread, hwrite]
  cases s.wordsAnswered 1 with
  | none => exact .inl ⟨rfl, rfl⟩
  | some ws =>
    refine .inr ?_
    rw [State.cfgRead]
    dsimp only [State.busWrite]
    cases (s.asked (.read s.cfg.sa m.reg 1)).wordsAnswered 0 with
    | none => exact .inl ⟨nofun, rfl, ws.headD 0, rfl⟩
    | some _ => exact .inr ⟨nofun, nofun, ws.headD 0, rfl⟩

/-- INIT whose bus init is answered err (R262, R64). -/
theorem State.initialise_of_err {s : State} (herr : s.nextAnswer = .err) :
    s.initialise = (s.asked (.init s.cfg.freqKhz)).raise .transportError := by
  rw [State.initialise, State.busInit, State.wordsAnswered_eq_none_iff.2 herr]
  rfl

/-- The commands that use the bus (R63). -/
theorem eq_of_usesBus {i : Instr} (h : Spec.usesBus i) : i = .eeld ∨ i = .frd ∨ i = .init ∨ i = .rdframe := by
  cases i <;> simp [Spec.usesBus] at h ⊢

/-- Every other command leaves the transport's answers and the requests alone. -/
theorem exec_bus_of_not_usesBus {i : Instr} {s t : State} (hi : ¬ Spec.usesBus i) (h : exec i s = .next t) :
    t.script = s.script ∧ t.reqs = s.reqs :=
  exec_keeps h .bus (footprint_bus hi)

/-! ## The requests that are issued (R63, R335) -/

/-- From s to t at most n requests are issued, and each is one P allows. -/
def State.Issues (s : State) (P : BusReq → Prop) (n : Nat) (t : State) : Prop :=
  ∃ qs, t.reqs = qs ++ s.reqs ∧ (∀ q ∈ qs, P q) ∧ qs.length ≤ n

section
variable {P : BusReq → Prop} {m n k : Nat} {s t u : State}

theorem State.Issues.of_reqs_eq (h : t.reqs = s.reqs) : s.Issues P n t := ⟨[], h, nofun, Nat.zero_le n⟩

theorem State.Issues.of_reqs_eq_cons {q : BusReq} (h : t.reqs = q :: s.reqs) (hq : P q) (hn : 1 ≤ n := by omega) :
    s.Issues P n t :=
  ⟨[q], h, by simpa using hq, hn⟩

theorem State.Issues.trans (h : s.Issues P m t) (h' : t.Issues P n u) (hk : m + n ≤ k := by omega) :
    s.Issues P k u := by
  obtain ⟨qs, hqs, hP, hlen⟩ := h
  obtain ⟨rs, hrs, hP', hlen'⟩ := h'
  refine ⟨rs ++ qs, by rw [hrs, hqs, List.append_assoc], fun q hq => ?_, by rw [List.length_append]; omega⟩
  exact (List.mem_append.1 hq).elim (hP' q) (hP q)

/-- A last stage that issues no request. -/
theorem State.Issues.trans_eq (h : s.Issues P m t) (ht : u.reqs = t.reqs) (hn : m ≤ n := by omega) : s.Issues P n u :=
  h.trans (.of_reqs_eq (n := 0) ht) hn

end

theorem State.issues_capture (s : State) : s.Issues (Spec.mayRequest s.cfg .eeld) 1 s.capture := by
  obtain ⟨-, h⟩ | ⟨ws, -, -, h⟩ := s.capture_cases <;> rw [h] <;> exact .of_reqs_eq_cons rfl rfl

/-- The request of a step of the frame reader is one of FRD's (R63, R196 to R201). -/
theorem State.mayRequest_frRequest {s : State} (h : s.fs ≠ .idle) : Spec.mayRequest s.cfg .frd s.frRequest := by
  unfold State.frRequest
  cases hf : s.fs with
  | idle => exact absurd hf h
  | pollStatus => exact .inl rfl
  | clearFlag => exact .inr (.inl rfl)
  | readWindows =>
    by_cases hw : s.win < 6
    · exact .inr (.inr (.inl ⟨s.subp, s.win, hw, if_pos hw⟩))
    · exact .inr (.inr (.inr (.inl (if_neg hw))))
  | repoll => exact .inl rfl
  | readCtrl => exact .inr (.inr (.inr (.inr rfl)))

theorem State.issues_frRun (k : Nat) (s : State) : s.Issues (Spec.mayRequest s.cfg .frd) k (State.frRun k s) := by
  induction k generalizing s with
  | zero => exact .of_reqs_eq rfl
  | succ k ih =>
    by_cases hi : s.fs = .idle
    · rw [State.frRun_idle hi]
      exact .of_reqs_eq rfl
    · rw [State.frRun_succ hi]
      have hrest := ih s.frStep
      rw [State.frStep_cfg] at hrest
      have hfirst : s.Issues (Spec.mayRequest s.cfg .frd) 1 s.frStep :=
        .of_reqs_eq_cons (State.frStep_reqs hi) (State.mayRequest_frRequest hi)
      exact hfirst.trans hrest

theorem State.issues_acquire (s : State) : s.Issues (Spec.mayRequest s.cfg .frd) 51 s.acquire :=
  s.frStart.issues_frRun frMaxSteps

theorem State.issues_readFrame (s : State) : s.Issues (Spec.mayRequest s.cfg .rdframe) 51 s.readFrame := by
  obtain ⟨-, h⟩ | ⟨-, h⟩ := s.readFrame_cases <;> rw [h]
  · exact s.issues_acquire.trans_eq s.acquire.ambient_reqs
  · exact s.issues_acquire

theorem State.issues_cfgRead {s : State} {m : Rmw} (hm : m ∈ s.cfg.cfgSeq) :
    s.Issues (Spec.mayRequest s.cfg .init) 1 (s.cfgRead m) :=
  .of_reqs_eq_cons rfl (.inr (.inr ⟨m, hm, .inl rfl⟩))

theorem State.issues_cfgWritten {s : State} {m : Rmw} (v : Word) (hm : m ∈ s.cfg.cfgSeq) :
    s.Issues (Spec.mayRequest s.cfg .init) 2 (s.cfgWritten m v) :=
  (State.issues_cfgRead hm).trans (n := 1) (.of_reqs_eq_cons rfl (.inr (.inr ⟨m, hm, .inr ⟨v, rfl⟩⟩)))

/-- CFG_SEQ issues at most two requests a step (R266). -/
theorem State.issues_runCfg {l : List Rmw} {s : State} (hl : l ⊆ s.cfg.cfgSeq) :
    s.Issues (Spec.mayRequest s.cfg .init) (2 * l.length) (State.runCfg l s) := by
  induction l generalizing s with
  | nil => exact .of_reqs_eq rfl
  | cons m rest ih =>
    obtain ⟨hm, hrest⟩ := List.cons_subset.1 hl
    rw [List.length_cons]
    obtain ⟨-, h⟩ | ⟨-, -, v, h⟩ | ⟨-, -, v, h⟩ := State.runCfg_cons_cases m rest s <;> rw [h]
    · exact (State.issues_cfgRead hm).trans_eq rfl
    · exact (State.issues_cfgWritten v hm).trans_eq rfl
    · exact (State.issues_cfgWritten v hm).trans (ih hrest)

theorem State.issues_configure (s : State) :
    s.Issues (Spec.mayRequest s.cfg .init) (2 * s.cfg.cfgSeq.length) s.configure :=
  (State.issues_runCfg (List.Subset.refl _)).trans_eq rfl

theorem State.issues_dumped (s : State) : s.Issues (Spec.mayRequest s.cfg .init) 2 s.dumped := by
  have hinit : s.Issues (Spec.mayRequest s.cfg .init) 1 (s.asked (.init s.cfg.freqKhz)) :=
    .of_reqs_eq_cons rfl (.inl rfl)
  obtain ⟨qs, hreqs, hall, hlen⟩ := State.issues_capture (s.asked (.init s.cfg.freqKhz))
  exact hinit.trans (n := 1) ⟨qs, hreqs, fun q hq => .inr (.inl (hall q hq)), hlen⟩

theorem State.issues_initialise (s : State) :
    s.Issues (Spec.mayRequest s.cfg .init) (2 + 2 * s.cfg.cfgSeq.length) s.initialise := by
  have hdumped := s.issues_dumped
  have hprepared : s.Issues (Spec.mayRequest s.cfg .init) 2 s.prepared := hdumped.trans_eq (by simp [State.prepared])
  have hcfg : s.prepared.commitCal.cfg = s.cfg := (s.keeps_prepared .fixed (by simp)).2.1
  obtain h | ⟨-, h⟩ | ⟨-, h⟩ | ⟨-, x, -, h⟩ | ⟨-, -, h⟩ := s.initialise_cases <;> rw [h]
  · exact .of_reqs_eq_cons rfl (.inl rfl)
  · exact hdumped.trans_eq rfl
  · exact hdumped.trans_eq (by simp)
  · exact hprepared.trans_eq rfl
  · have hconfigure := s.prepared.commitCal.issues_configure
    rw [hcfg] at hconfigure
    exact hprepared.trans hconfigure

/-- The pseudocode of a command that uses the bus keeps to the requests listed for it. -/
theorem State.issues_perform (s : State) {i : Instr} (hi : Spec.usesBus i) :
    s.Issues (Spec.mayRequest s.cfg i) (Spec.requestBound s.cfg i) (s.perform i) := by
  obtain rfl | rfl | rfl | rfl := eq_of_usesBus hi
  · exact s.issues_capture
  · exact s.issues_acquire
  · exact s.issues_initialise
  · exact s.issues_readFrame

/-! ## The answers up to the first err (R64) -/

/-- An answer err is still to come, after answers ok, and the answers `more` stand behind it. -/
def AwaitsErr (more script : List BusAnswer) : Prop := ∃ oks : List (List Word), script = oks.map .ok ++ .err :: more

section
variable {more : List BusAnswer} {s t : State} {ends : State → Prop}

theorem AwaitsErr.length_lt {script : List BusAnswer} (h : AwaitsErr more script) : more.length < script.length := by
  obtain ⟨oks, rfl⟩ := h
  simp
  omega

/-- The request answered err leaves the answers behind it. -/
theorem AwaitsErr.tail_of_err (h : AwaitsErr more s.script) (herr : s.nextAnswer = .err) : s.script.tail = more := by
  obtain ⟨oks, hs⟩ := h
  cases oks with
  | nil => rw [hs]; rfl
  | cons ws oks => simp [State.nextAnswer, hs] at herr

/-- Until then the err is still to come. -/
theorem AwaitsErr.tail_of_ok (h : AwaitsErr more s.script) (hok : s.nextAnswer ≠ .err) : AwaitsErr more s.script.tail := by
  obtain ⟨oks, hs⟩ := h
  cases oks with
  | nil => simp [State.nextAnswer, hs] at hok
  | cons ws oks => exact ⟨oks, by rw [hs]; rfl⟩

/-- A run that ends in t has not used the err, or the err was its last answer and t is as `ends` says. -/
def State.EndsAtErr (t : State) (more : List BusAnswer) (ends : State → Prop) : Prop :=
  AwaitsErr more t.script ∨ (t.script = more ∧ ends t)

/-- How a command other than INIT reports the err (R64). -/
def State.busRaised (t : State) : Prop := t.status = .transportError

/-- How INIT does: in CFG_SEQ an err is a warning (R266). -/
def State.busWarned (t : State) : Prop := t.status = .transportError ∨ (t.status = .ok ∧ t.wCfg = true)

theorem State.EndsAtErr.capture (h : AwaitsErr more s.script) : s.capture.EndsAtErr more State.busRaised := by
  obtain ⟨hnone, hs⟩ | ⟨ws, hsome, -, hs⟩ := s.capture_cases <;> rw [hs]
  · exact .inr ⟨h.tail_of_err (State.wordsAnswered_eq_none_iff.1 hnone), rfl⟩
  · refine .inl (h.tail_of_ok fun herr => ?_)
    rw [State.wordsAnswered_eq_none_iff.2 herr] at hsome
    cases hsome

/-- A step of the frame reader that uses the err comes to IDLE, where the machine asks no more (R195). -/
theorem State.EndsAtErr.frStep (hi : s.fs ≠ .idle) (h : s.EndsAtErr more fun u => u.fs = .idle ∧ u.busRaised) :
    s.frStep.EndsAtErr more fun u => u.fs = .idle ∧ u.busRaised := by
  obtain hawait | ⟨-, hidle, -⟩ := h
  · by_cases herr : s.nextAnswer = .err
    · rw [State.frStep_of_err hi herr]
      exact .inr ⟨hawait.tail_of_err herr, rfl, rfl⟩
    · exact .inl (by rw [State.frStep_script hi]; exact hawait.tail_of_ok herr)
  · exact absurd hidle hi

theorem State.EndsAtErr.acquire (h : AwaitsErr more s.script) : s.acquire.EndsAtErr more State.busRaised := by
  have hrun : s.acquire.EndsAtErr more fun u => u.fs = .idle ∧ u.busRaised :=
    State.frRun_induct (P := fun u => u.EndsAtErr more _) (fun u hi hu => hu.frStep hi) frMaxSteps (.inl h)
  exact hrun.imp_right fun ⟨hscript, _, hraised⟩ => ⟨hscript, hraised⟩

/-- A stage that ended OK has not used the err. -/
theorem State.EndsAtErr.awaits_of_ok (h : s.EndsAtErr more State.busRaised) (hok : s.status = .ok) :
    AwaitsErr more s.script := by
  obtain h | ⟨-, hraised⟩ := h
  · exact h
  · exact absurd (hraised.symm.trans hok) nofun

theorem State.EndsAtErr.readFrame (h : AwaitsErr more s.script) : s.readFrame.EndsAtErr more State.busRaised := by
  have hacquire := State.EndsAtErr.acquire h
  obtain ⟨hok, hs⟩ | ⟨-, hs⟩ := s.readFrame_cases <;> rw [hs]
  · exact .inl (hacquire.awaits_of_ok hok)
  · exact hacquire

/-- CFG_SEQ skips what follows its first err, and sets W_CFG (R266). -/
theorem State.EndsAtErr.runCfg {l : List Rmw} (h : AwaitsErr more s.script) :
    (State.runCfg l s).EndsAtErr more fun u => u.wCfg = true := by
  induction l generalizing s with
  | nil => exact .inl h
  | cons m rest ih =>
    have hread (hok : s.nextAnswer ≠ .err) : AwaitsErr more (s.cfgRead m).script := h.tail_of_ok hok
    obtain ⟨herr, hs⟩ | ⟨hok, herr, v, hs⟩ | ⟨hok, hok', v, hs⟩ := State.runCfg_cons_cases m rest s <;> rw [hs]
    · exact .inr ⟨h.tail_of_err herr, rfl⟩
    · exact .inr ⟨(hread hok).tail_of_err herr, rfl⟩
    · exact ih ((hread hok).tail_of_ok hok')

theorem State.EndsAtErr.initialise (h : AwaitsErr more s.script) : s.initialise.EndsAtErr more State.busWarned := by
  by_cases herr : s.nextAnswer = .err
  · rw [State.initialise_of_err herr]
    exact .inr ⟨h.tail_of_err herr, .inl rfl⟩
  · have hinit : AwaitsErr more (s.asked (.init s.cfg.freqKhz)).script := h.tail_of_ok herr
    have hdumped : s.dumped.EndsAtErr more State.busRaised := State.EndsAtErr.capture hinit
    have hprepared : s.prepared.script = s.dumped.script := by simp [State.prepared]
    obtain hs | ⟨-, hs⟩ | ⟨hok, hs⟩ | ⟨hok, x, -, hs⟩ | ⟨hok, -, hs⟩ := s.initialise_cases <;> rw [hs]
    · exact .inl hinit
    · exact hdumped.imp_right fun ⟨hscript, hraised⟩ => ⟨hscript, .inl hraised⟩
    · exact .inl (by simpa using hdumped.awaits_of_ok hok)
    · exact .inl (by simpa [hprepared] using hdumped.awaits_of_ok hok)
    · have hcommit : AwaitsErr more s.prepared.commitCal.script := by
        simpa [hprepared] using hdumped.awaits_of_ok hok
      exact (State.EndsAtErr.runCfg hcommit).imp_right fun ⟨hscript, hwarn⟩ => ⟨hscript, .inr ⟨rfl, hwarn⟩⟩

/-- The pseudocode of a command that uses the bus stops at the err. -/
theorem State.EndsAtErr.perform {i : Instr} (hi : Spec.usesBus i) (h : AwaitsErr more s.script) :
    (s.perform i).EndsAtErr more fun u => (i ≠ .init → u.busRaised) ∧ (i = .init → u.busWarned) := by
  obtain rfl | rfl | rfl | rfl := eq_of_usesBus hi
  · exact (State.EndsAtErr.capture h).imp_right fun ⟨hscript, hends⟩ => ⟨hscript, fun _ => hends, nofun⟩
  · exact (State.EndsAtErr.acquire h).imp_right fun ⟨hscript, hends⟩ => ⟨hscript, fun _ => hends, nofun⟩
  · exact (State.EndsAtErr.initialise h).imp_right fun ⟨hscript, hends⟩ =>
      ⟨hscript, fun hne => absurd rfl hne, fun _ => hends⟩
  · exact (State.EndsAtErr.readFrame h).imp_right fun ⟨hscript, hends⟩ => ⟨hscript, fun _ => hends, nofun⟩

end

end Sys2Proof.Machine

namespace Sys2Proof

open Machine

/-- Settles O55: a refusal and a command off the bus issue nothing; the others by `State.issues_perform`. -/
theorem busRequestsAreTheListedOnes : Obligations.BusRequestsAreTheListedOnes := by
  intro i s t h
  show s.Issues (Spec.mayRequest s.cfg i) (Spec.requestBound s.cfg i) t
  by_cases hi : Spec.usesBus i
  · obtain ⟨-, rfl⟩ | ⟨-, x, -, rfl⟩ | ⟨-, -, -, rfl⟩ := exec_cases h
    · exact .of_reqs_eq rfl
    · exact .of_reqs_eq rfl
    · exact s.issues_perform hi
  · exact .of_reqs_eq (exec_bus_of_not_usesBus hi h).2

/-- Settles O44: a refusal and a command off the bus have not used the err; the others by `State.EndsAtErr.perform`. -/
theorem errAnswerIsTheLast : Obligations.ErrAnswerIsTheLast := by
  intro i s t oks more hscript h hused
  have hawait : AwaitsErr more s.script := ⟨oks, hscript⟩
  have hend : t.EndsAtErr more fun u => (i ≠ .init → u.busRaised) ∧ (i = .init → u.busWarned) := by
    by_cases hi : Spec.usesBus i
    · obtain ⟨-, rfl⟩ | ⟨-, x, -, rfl⟩ | ⟨-, -, -, rfl⟩ := exec_cases h
      · exact .inl hawait
      · exact .inl hawait
      · exact .perform hi hawait
    · exact .inl ((exec_bus_of_not_usesBus hi h).1 ▸ hawait)
  obtain hleft | hdone := hend
  · exact absurd hleft.length_lt hused.not_gt
  · exact hdone

end Sys2Proof
end

section
/-! The encoding (O1 to O5). A command word is its four fields (`cw_fields`), and the match of its row fixes every field the
row's mask covers; so a word that matches is the one its command is encoded with, and decoding is inverted operation by
operation. What forms no command is then what decoding rejects, together with the commands that fail their own checks. -/

namespace Sys2Proof

/-! ## A word is its fields -/

theorem getLsbD_of_extractLsb'_eq_zero {f : Word32} {start len k : ℕ} (h : f.extractLsb' start len = 0)
    (hlo : start ≤ k) (hhi : k < start + len) : f.getLsbD k = false := by
  have hbit := congrArg (·.getLsbD (k - start)) h
  simpa [show k - start < len by omega, show start + (k - start) = k by omega] using hbit

/-- A command word whose bits 18..16 are 0 is its fields (R91). -/
theorem cw_fields {c : Word32} (h : c.extractLsb' 16 3 = 0) : cw (cwOp c) (cwS c) (cwExp c) (cwImm c) = c := by
  have hreserved : ∀ k, 16 ≤ k → k < 19 → c.getLsbD k = false := fun k => getLsbD_of_extractLsb'_eq_zero h
  ext k hk
  simp only [cw, cwOp, cwS, cwExp, cwImm]
  interval_cases k <;> simp [← BitVec.getLsbD_eq_getElem, hreserved]

/-- No field covers CW[18:16] (R91). -/
theorem cw_reserved (op : BitVec 6) (s : BitVec 1) (e : BitVec 6) (i : Word) : (cw op s e i).extractLsb' 16 3 = 0 := by
  ext k hk
  simp only [cw]
  interval_cases k <;> simp

/-- A descriptor word whose reserved bits are 0 is its fields (R92). -/
theorem fdw_fields {f : Word32} (h : f.extractLsb' 26 6 = 0) :
    fdw ⟨f.extractLsb' 20 6, f.extractLsb' 16 4, f.extractLsb' 0 16⟩ = f := by
  have hreserved : ∀ k, 26 ≤ k → k < 32 → f.getLsbD k = false := fun k => getLsbD_of_extractLsb'_eq_zero h
  ext k hk
  simp only [fdw]
  interval_cases k <;> simp [← BitVec.getLsbD_eq_getElem, hreserved]

/-- A word carries a descriptor only if its reserved bits are 0, and then that of its fields (R92, R96). -/
theorem descOf_eq_ok {f : Word32} {d : Desc} (h : descOf f = .ok d) :
    f.extractLsb' 26 6 = 0 ∧ d = ⟨f.extractLsb' 20 6, f.extractLsb' 16 4, f.extractLsb' 0 16⟩ := by
  unfold descOf at h
  split at h
  case isTrue hreserved =>
    injection h with h
    exact ⟨hreserved, h.symm⟩
  case isFalse => nomatch h

theorem eq_fdw_of_descOf {f : Word32} {d : Desc} (h : descOf f = .ok d) : f = fdw d := by
  obtain ⟨hreserved, rfl⟩ := descOf_eq_ok h
  exact (fdw_fields hreserved).symm

/-! ## A word that matches a row holds only the fields the row leaves free (R102) -/

section

variable {op : BitVec 6} {c mask pattern : Word32}

/-- Where a mask covers a field, a word that passes the match has the pattern's field. -/
theorem extractLsb'_of_match {start len : ℕ} (h : c &&& mask = pattern)
    (hmask : mask.extractLsb' start len = BitVec.allOnes len) :
    c.extractLsb' start len = pattern.extractLsb' start len := by
  rw [← h, BitVec.extractLsb'_and, hmask, BitVec.and_allOnes]

theorem cwOp_of_match (h : c &&& mask = pattern) (hmask : cwOp mask = BitVec.allOnes 6) : cwOp c = cwOp pattern :=
  extractLsb'_of_match h hmask

theorem cwS_of_match (h : c &&& mask = cw op 0 0 0) (hmask : cwS mask = BitVec.allOnes 1) : cwS c = 0 :=
  (extractLsb'_of_match h hmask).trans (cwS_cw ..)

theorem cwExp_of_match (h : c &&& mask = cw op 0 0 0) (hmask : cwExp mask = BitVec.allOnes 6) : cwExp c = 0 :=
  (extractLsb'_of_match h hmask).trans (cwExp_cw ..)

theorem cwImm_of_match (h : c &&& mask = cw op 0 0 0) (hmask : cwImm mask = BitVec.allOnes 16) : cwImm c = 0 :=
  (extractLsb'_of_match h hmask).trans (cwImm_cw ..)

/-- A word that matches a command word without operands is the fields it has, its opcode being the row's. -/
theorem eq_cw_of_match (h : c &&& mask = cw op 0 0 0) (hop : cwOp mask = BitVec.allOnes 6)
    (hreserved : mask.extractLsb' 16 3 = BitVec.allOnes 3) : c = cw op (cwS c) (cwExp c) (cwImm c) := by
  have hfields := cw_fields ((extractLsb'_of_match h hreserved).trans (cw_reserved ..))
  rwa [cwOp_of_match h hop, cwOp_cw, eq_comm] at hfields

theorem eq_of_match_all (h : c &&& 0xFFFFFFFF = pattern) : c = pattern :=
  (BitVec.and_allOnes (x := c)).symm.trans h

theorem eq_cw_of_match_s (h : c &&& 0xFDFFFFFF = cw op 0 0 0) : c = cw op (cwS c) 0 0 := by
  have hfields := eq_cw_of_match h rfl rfl
  rwa [cwExp_of_match h rfl, cwImm_of_match h rfl] at hfields

theorem eq_cw_of_match_exp (h : c &&& 0xFE07FFFF = cw op 0 0 0) : c = cw op 0 (cwExp c) 0 := by
  have hfields := eq_cw_of_match h rfl rfl
  rwa [cwS_of_match h rfl, cwImm_of_match h rfl] at hfields

theorem eq_cw_of_match_imm (h : c &&& 0xFFFF0000 = cw op 0 0 0) : c = cw op 0 0 (cwImm c) := by
  have hfields := eq_cw_of_match h rfl rfl
  rwa [cwS_of_match h rfl, cwExp_of_match h rfl] at hfields

end

/-- The S bit is the flag it is read as. -/
theorem sBit_beq_one : ∀ s : BitVec 1, sBit (s == 1) = s := by decide

/-! ## What the decoder accepts -/

/-- Words that decode to a command match a row, and the row's operation builds the command from them. -/
theorem decode_eq_ok {c : Word32} {rest : List Word32} {i : Instr} (h : decode (c :: rest) = .ok i) :
    ∃ r ∈ opTable, c &&& r.mask = r.pattern ∧ buildInstr r.op c rest = .ok i := by
  cases hrow : opRow (cwOp c) with
  | none =>
    rw [decode_of_opRow_none hrow] at h
    nomatch h
  | some r =>
    rw [decode_of_opRow hrow] at h
    split at h
    · next hmatch => exact ⟨r, (opRow_mem hrow).1, hmatch, h⟩
    · nomatch h

theorem noMoreWords_eq_ok {i j : Instr} {rest : List Word32} (h : noMoreWords i rest = .ok j) : rest = [] ∧ i = j :=
  match rest, h with
  | [], h => ⟨rfl, by injection h⟩

theorem oneMoreWord_eq_ok {f : Word32 → Except DecodeError Instr} {rest : List Word32} {i : Instr}
    (h : oneMoreWord f rest = .ok i) : ∃ a, rest = [a] ∧ f a = .ok i :=
  match rest, h with
  | [a], h => ⟨a, rfl, h⟩

theorem twoMoreWords_eq_ok {f : Word32 → Word32 → Except DecodeError Instr} {rest : List Word32} {i : Instr}
    (h : twoMoreWords f rest = .ok i) : ∃ a b, rest = [a, b] ∧ f a b = .ok i :=
  match rest, h with
  | [a, b], h => ⟨a, b, rfl, h⟩

theorem exists_of_bind_eq_ok {ε α β : Type} {x : Except ε α} {f : α → Except ε β} {b : β} (h : x.bind f = .ok b) :
    ∃ a, x = .ok a ∧ f a = .ok b :=
  match x, h with
  | .ok a, h => ⟨a, rfl, h⟩

theorem exists_of_map_eq_ok {ε α β : Type} {x : Except ε α} {f : α → β} {b : β} (h : x.map f = .ok b) :
    ∃ a, x = .ok a ∧ f a = b :=
  match x, h with
  | .ok a, h => ⟨a, rfl, by injection h⟩

/-- A one-word command is decoded from its own command word only. -/
theorem eq_encode_of_noMoreWords {i j : Instr} {c w : Word32} {rest : List Word32} (h : noMoreWords i rest = .ok j)
    (hc : c = w) (hi : encode i = [w]) : c :: rest = encode j := by
  obtain ⟨rfl, rfl⟩ := noMoreWords_eq_ok h
  rw [hc, hi]

/-- The words after a matching command word are those of the command its operation builds. -/
theorem eq_encode_of_buildInstr {r : OpRow} {c : Word32} {rest : List Word32} {i : Instr} (hr : r ∈ opTable)
    (hm : c &&& r.mask = r.pattern) (hb : buildInstr r.op c rest = .ok i) : c :: rest = encode i := by
  obtain ⟨code, op, mnemonic, wordsAfter, pattern, mask⟩ := r
  cases op <;> simp [opTable] at hr <;> obtain ⟨rfl, rfl, rfl, rfl, rfl⟩ := hr
  case xraw =>
    obtain ⟨f, rfl, hf⟩ := oneMoreWord_eq_ok hb
    obtain ⟨d, hd, rfl⟩ := exists_of_map_eq_ok hf
    obtain rfl := eq_fdw_of_descOf hd
    rw [eq_of_match_all hm]
    rfl
  case xsgl =>
    obtain ⟨f, rfl, hf⟩ := oneMoreWord_eq_ok hb
    obtain ⟨d, hd, rfl⟩ := exists_of_map_eq_ok hf
    obtain rfl := eq_fdw_of_descOf hd
    rw [encode, sBit_beq_one, ← eq_cw_of_match_s (op := 0x02) hm]
  case xdbl =>
    obtain ⟨f, g, rfl, hf⟩ := twoMoreWords_eq_ok hb
    obtain ⟨hi, hhi, hg⟩ := exists_of_bind_eq_ok hf
    obtain ⟨lo, hlo, rfl⟩ := exists_of_map_eq_ok hg
    obtain rfl := eq_fdw_of_descOf hhi
    obtain rfl := eq_fdw_of_descOf hlo
    rw [encode, sBit_beq_one, ← eq_cw_of_match_s (op := 0x03) hm]
  case ldx =>
    obtain ⟨n, rfl, ⟨⟩⟩ := oneMoreWord_eq_ok hb
    rw [eq_of_match_all hm]
    rfl
  case calcto =>
    obtain ⟨eps, tr, rfl, ⟨⟩⟩ := twoMoreWords_eq_ok hb
    rw [eq_of_match_all hm]
    rfl
  case sext => exact eq_encode_of_noMoreWords hb (eq_cw_of_match_imm (op := 0x04) hm) rfl
  case scdiv => exact eq_encode_of_noMoreWords hb (eq_cw_of_match_exp (op := 0x05) hm) rfl
  case scmul => exact eq_encode_of_noMoreWords hb (eq_cw_of_match_exp (op := 0x06) hm) rfl
  case eccw => exact eq_encode_of_noMoreWords hb (eq_cw_of_match_imm (op := 0x08) hm) rfl
  case gett => exact eq_encode_of_noMoreWords hb (eq_cw_of_match_imm (op := 0x1B) hm) rfl
  case eccs | calx | eeld | frd | amb | bpfix | init | rdframe | calct | getamb =>
    exact eq_encode_of_noMoreWords hb (eq_of_match_all hm) rfl

/-- Settles O1: each command's own words find its row (`decode_cw`), whose operation builds the command back. -/
theorem decodeOfEncode : Obligations.DecodeOfEncode := by
  intro i
  cases i with
  | xraw d => rw [encode, decode_cw opRow_xraw (by rfl), buildInstr, oneMoreWord, descOf_fdw, Except.map]
  | xsgl sgn d =>
    rw [encode, decode_cw opRow_xsgl (cw_mask_xsgl sgn), buildInstr, oneMoreWord, cwS_cw, descOf_fdw]
    exact congrArg (fun b => Except.ok (Instr.xsgl b d)) (sBit_eq_one sgn)
  | xdbl sgn hi lo =>
    rw [encode, decode_cw opRow_xdbl (cw_mask_xdbl sgn), buildInstr, twoMoreWords, cwS_cw, descOf_fdw, descOf_fdw]
    exact congrArg (fun b => Except.ok (Instr.xdbl b hi lo)) (sBit_eq_one sgn)
  | sext w => rw [encode, decode_cw opRow_sext (cw_mask_sext w), buildInstr, noMoreWords, cwImm_cw]
  | scdiv e => rw [encode, decode_cw opRow_scdiv (cw_mask_scdiv e), buildInstr, noMoreWords, cwExp_cw]
  | scmul e => rw [encode, decode_cw opRow_scmul (cw_mask_scmul e), buildInstr, noMoreWords, cwExp_cw]
  | ldx n => exact decode_cw opRow_ldx rfl
  | eccw w => rw [encode, decode_cw opRow_eccw (cw_mask_eccw w), buildInstr, noMoreWords, cwImm_cw]
  | eccs => exact decode_cw opRow_eccs rfl
  | calx => exact decode_cw opRow_calx rfl
  | eeld => exact decode_cw opRow_eeld rfl
  | frd => exact decode_cw opRow_frd rfl
  | amb => exact decode_cw opRow_amb rfl
  | calcto eps tr => exact decode_cw opRow_calcto rfl
  | bpfix => exact decode_cw opRow_bpfix rfl
  | init => exact decode_cw opRow_init rfl
  | rdframe => exact decode_cw opRow_rdframe rfl
  | calct => exact decode_cw opRow_calct rfl
  | gett index => rw [encode, decode_cw opRow_gett (cw_mask_gett index), buildInstr, noMoreWords, cwImm_cw]
  | getamb => exact decode_cw opRow_getamb rfl

/-- Settles O2: the words match a row, and by `eq_encode_of_buildInstr` are those of the command its operation builds. -/
theorem encodeOfDecode : Obligations.EncodeOfDecode := by
  intro ws i h
  cases ws with
  | nil => nomatch h
  | cons c rest =>
    obtain ⟨r, hr, hm, hb⟩ := decode_eq_ok h
    exact eq_encode_of_buildInstr hr hm hb

/-- Settles O3: the words of each worked encoding are its command's own words. -/
theorem workedEncodingsDecode : Obligations.WorkedEncodingsDecode :=
  ⟨decodeOfEncode (.xsgl true ⟨11, 0, 0x2427⟩), decodeOfEncode (.scmul 5), decodeOfEncode (.sext 11),
    decodeOfEncode (.gett 191), decodeOfEncode (.eccw 0xD155), decodeOfEncode (.calcto 0x3F733333 0x41BC0000),
    decodeOfEncode (.xdbl true ⟨11, 0, 0x2411⟩ ⟨5, 0, 0x2412⟩)⟩

/-! ## Words that form no command (R102, R103) -/

/-- The statement's rows are those of the opcode map. -/
theorem mem_commandWords {row : Word32 × Word32 × ℕ} :
    row ∈ Spec.commandWords ↔ ∃ r ∈ opTable, (r.pattern, r.mask, r.wordsAfter) = row :=
  List.mem_map (f := fun r : OpRow => (r.pattern, r.mask, r.wordsAfter)) (l := opTable)

/-- A word matches no row but its opcode's own. -/
theorem opRow_of_match {r : OpRow} {c : Word32} (hr : r ∈ opTable) (hm : c &&& r.mask = r.pattern) :
    opRow (cwOp c) = some r := by
  have htable : ∀ r ∈ opTable, cwOp r.mask = BitVec.allOnes 6 ∧ opRow (cwOp r.pattern) = some r := by decide
  obtain ⟨hmask, hrow⟩ := htable r hr
  rwa [cwOp_of_match hm hmask]

/-- Every command has as many words as its opcode says (R90, R104). -/
theorem encodedLength (i : Instr) : Laws.EncodedLength.Statement i := by
  cases i with
  | xraw d => exact Laws.EncodedLength.xraw d
  | xsgl sgn d => exact Laws.EncodedLength.xsgl sgn d
  | xdbl sgn hi lo => exact Laws.EncodedLength.xdbl sgn hi lo
  | sext w => exact Laws.EncodedLength.sext w
  | scdiv e => exact Laws.EncodedLength.scdiv e
  | scmul e => exact Laws.EncodedLength.scmul e
  | ldx n => exact Laws.EncodedLength.ldx n
  | eccw w => exact Laws.EncodedLength.eccw w
  | eccs => exact Laws.EncodedLength.eccs
  | calx => exact Laws.EncodedLength.calx
  | eeld => exact Laws.EncodedLength.eeld
  | frd => exact Laws.EncodedLength.frd
  | amb => exact Laws.EncodedLength.amb
  | calcto eps tr => exact Laws.EncodedLength.calcto eps tr
  | bpfix => exact Laws.EncodedLength.bpfix
  | init => exact Laws.EncodedLength.init
  | rdframe => exact Laws.EncodedLength.rdframe
  | calct => exact Laws.EncodedLength.calct
  | gett index => exact Laws.EncodedLength.gett index
  | getamb => exact Laws.EncodedLength.getamb

theorem toNat_extractLsb' (f : Word32) (start len : ℕ) :
    (f.extractLsb' start len).toNat = f.toNat / 2 ^ start % 2 ^ len := by
  rw [BitVec.extractLsb'_toNat, Nat.shiftRight_eq_div_pow]

/-- The word of a descriptor is ill-formed only if its width is out of range (R96). -/
theorem not_wf_of_badDescriptor {d : Desc} (h : Spec.badDescriptor (fdw d)) : d.wf = false := by
  obtain ⟨hreserved, hd⟩ := descOf_eq_ok (descOf_fdw d)
  have hzero : 0 = (fdw d).toNat / 2 ^ 26 % 2 ^ 6 := by rw [← toNat_extractLsb', hreserved]; rfl
  have hwidth : d.width.toNat = (fdw d).toNat / 2 ^ 20 % 2 ^ 6 := by
    rw [← toNat_extractLsb']
    exact congrArg (fun d => d.width.toNat) hd
  unfold Spec.badDescriptor at h
  simp only [Desc.wf, Bool.and_eq_false_iff, decide_eq_false_iff_not]
  omega

/-- Among the opcodes up to 3, those with descriptors, an ill-formed descriptor word makes the command ill-formed (R96). -/
theorem not_wf_of_mem_badDescriptor {i : Instr} {c f : Word32} {rest : List Word32} (henc : c :: rest = encode i)
    (hop : (cwOp c).toNat ≤ 3) (hf : f ∈ rest) (hbad : Spec.badDescriptor f) : i.wf = false := by
  cases i with
  | xraw d =>
    obtain ⟨rfl, rfl⟩ := List.cons_eq_cons.1 henc
    obtain rfl := List.mem_singleton.1 hf
    exact not_wf_of_badDescriptor hbad
  | xsgl sgn d =>
    obtain ⟨rfl, rfl⟩ := List.cons_eq_cons.1 henc
    obtain rfl := List.mem_singleton.1 hf
    exact not_wf_of_badDescriptor hbad
  | xdbl sgn hi lo =>
    obtain ⟨rfl, rfl⟩ := List.cons_eq_cons.1 henc
    simp only [Instr.wf, Bool.and_eq_false_iff]
    obtain rfl | hf := List.mem_cons.1 hf
    · exact .inl (not_wf_of_badDescriptor hbad)
    · obtain rfl := List.mem_singleton.1 hf
      exact .inr (not_wf_of_badDescriptor hbad)
  | _ =>
    obtain ⟨rfl, -⟩ := List.cons_eq_cons.1 henc
    rw [cwOp_cw] at hop
    exact absurd hop (by decide)

/-- A command that words forming no command still decode to fails its own checks (log 14). -/
theorem not_wf_of_formsNoCommand {i : Instr} {c : Word32} {rest : List Word32} (hdecode : decode (c :: rest) = .ok i)
    (hno : Spec.formsNoCommand c rest) : i.wf = false := by
  have henc : c :: rest = encode i := encodeOfDecode _ i hdecode
  obtain hunmatched | ⟨row, hrow, hm, hlength⟩ | ⟨-, hop, f, hf, hbad⟩ := hno
  · obtain ⟨r, hr, hm, -⟩ := decode_eq_ok hdecode
    exact absurd hm (hunmatched _ (mem_commandWords.2 ⟨r, hr, rfl⟩))
  · obtain ⟨r, hr, rfl⟩ := mem_commandWords.1 hrow
    obtain ⟨c', rest', henc', hcount, -⟩ := encodedLength i
    obtain ⟨rfl, rfl⟩ := List.cons_eq_cons.1 (henc.trans henc')
    rw [wordsAfterCw_of_opRow (opRow_of_match hr hm)] at hcount
    exact absurd hcount hlength
  · refine not_wf_of_mem_badDescriptor henc ?_ hf hbad
    rw [cwOp, toNat_extractLsb']
    exact (Nat.mod_le _ _).trans hop

end Sys2Proof

namespace Sys2Proof.Machine

/-! ## A step that takes a transaction -/

theorem State.taken_eq {s : State} {act : HostAct} {more : List HostAct} (h : s.cmds = act :: more) :
    s.taken = { s with cmds := more } := by
  rw [State.taken, h]
  rfl

theorem step_of_decode_ok {s : State} {ws : List Word32} {i : Instr} {more : List HostAct}
    (h : s.cmds = .transaction ws :: more) (hdecode : decode ws = .ok i) : step s = exec i s.taken := by
  simp only [step, fetch, h, fetchWords, hdecode]

theorem step_of_decode_error {s : State} {ws : List Word32} {e : DecodeError} {more : List HostAct}
    (h : s.cmds = .transaction ws :: more) (hdecode : decode ws = .error e) : step s = .next s.taken.answerIllegal := by
  simp only [step, fetch, h, fetchWords, hdecode]

/-- A command that fails its own checks is refused like words that form none (R293). -/
theorem exec_of_not_wf {i : Instr} {s : State} (hf : s.faulted = false) (hwf : i.wf = false) :
    exec i s = .next (s.refuse .illegalCommand) := by
  rw [exec_eq_command, hwf, State.command_illegal hf]

end Sys2Proof.Machine

namespace Sys2Proof

open Machine

theorem decode_of_decodeTableWord {nbits w : ℕ} {i : Instr} (h : decodeTableWord nbits w = some i) :
    decode (tableTransaction nbits w) = .ok i := by
  unfold decodeTableWord at h
  split at h
  · next hdecode =>
    injection h with h
    rw [hdecode, h]
  · nomatch h

/-- Settles O4: the decoder rejects the words, or the command they decode to fails its own checks. -/
theorem illegalWordsRefused : Obligations.IllegalWordsRefused := by
  intro s c rest more hf hcmds hno
  have hrefused : step s = .next (s.taken.refuse .illegalCommand) := by
    cases hdecode : decode (c :: rest) with
    | error e => rw [step_of_decode_error hcmds hdecode, State.answerIllegal, State.command_illegal (s := s.taken) hf]
    | ok i =>
      rw [step_of_decode_ok hcmds hdecode, exec_of_not_wf (s := s.taken) hf (not_wf_of_formsNoCommand hdecode hno)]
  rw [hrefused, State.taken_eq hcmds]
  rfl

/-- Settles O5, by `step_of_decode_ok` for both ways a transaction comes to be the next act. -/
theorem stepRunsDecodedCommand : Obligations.StepRunsDecodedCommand :=
  ⟨fun _ _ _ _ hcmds hdecode => State.taken_eq hcmds ▸ step_of_decode_ok hcmds hdecode,
    fun s _ _ _ h => step_of_decode_ok (s := s.withTransaction _) rfl (decode_of_decodeTableWord h)⟩

end Sys2Proof
end

section
/-! The bitfield extractor (O10 to O17). Every extraction ends in `State.extracted`: a violation is raised, or XR takes a value.
So each command is three facts: its checks (`checked_of_perform`), when a violation is found (`addressViolation_eq_none_iff`,
`dualViolation_eq_none_iff`), and the field's value and range (`sextNat_eq_sext`, `dualRaw_eq_add`, `InFieldRange`). SCDIV
rests on O18: a correctly rounded result whose exact value is a binary32 magnitude is that magnitude (`Spec.rounded.exact`). -/

namespace Sys2Proof

theorem Desc.wf_iff (d : Desc) : d.wf = true ↔ Spec.wellFormed d := by
  simp [Desc.wf, Spec.wellFormed]

theorem Config.inImage_iff (c : Config) (a : Word) : c.inImage a = true ↔ ¬ Spec.outOfImage c a := by
  simp [Config.inImage, Spec.outOfImage]

end Sys2Proof

namespace Sys2Proof.Machine

/-! ## The checks of BFX commands (R291, R293) -/

theorem State.imageReadable_iff (s : State) : s.imageReadable = true ↔ s.eeState = .raw ∨ s.eeState = .decoded := by
  unfold State.imageReadable
  cases s.eeState <;> simp

/-- A command all of whose checks pass runs its pseudocode. -/
theorem exec_eq_perform {i : Instr} {s : State} (hf : s.faulted = false) (hwf : i.wf = true) (hpre : s.admits i = true) :
    exec i s = .next (s.perform i) := by
  rw [exec_eq_command, hwf, hpre, State.command_pass hf]

/-- The checks of a command in the statements' words are those the model makes, and then its pseudocode runs (R293). -/
theorem checked_of_perform {i : Instr} {s : State} {legal pre effect : Prop} (hf : s.faulted = false)
    (hlegal : i.wf = true ↔ legal) (hpre : s.admits i = true ↔ pre)
    (heffect : legal → exec i s = .next (s.perform i) → effect) : Spec.checked i s legal pre effect := by
  refine ⟨fun hl => ?_, fun hl hp => ?_, fun hl hp => heffect hl (exec_eq_perform hf (hlegal.2 hl) (hpre.2 hp))⟩
  · exact exec_of_not_wf hf (Bool.eq_false_iff.2 (mt hlegal.1 hl))
  · rw [exec_eq_command, hlegal.2 hl, Bool.eq_false_iff.2 (mt hpre.1 hp), State.command_badState hf]
    rfl

/-! ## The violations of an extraction (R123, R127) -/

theorem addressViolation_eq_none_iff {c : Config} {d : Desc} :
    addressViolation c d = none ↔ ¬ Spec.outOfImage c d.addr := by
  rw [addressViolation_eq, ← Config.inImage_iff]
  split <;> simp [*]

theorem addressViolation_of_outOfImage {c : Config} {d : Desc} (h : Spec.outOfImage c d.addr) :
    addressViolation c d = some .addressOutOfRange := by
  rw [addressViolation_eq, if_neg]
  exact fun hin => (Config.inImage_iff c d.addr).1 hin h

theorem dualViolation_of_wide {c : Config} {hi lo : Desc} (h : 32 < hi.width.toNat + lo.width.toNat) :
    dualViolation c hi lo = some .fieldTooWide := if_pos h

theorem dualViolation_of_not_wide {c : Config} {hi lo : Desc} (h : ¬ 32 < hi.width.toNat + lo.width.toNat) :
    dualViolation c hi lo = (addressViolation c hi).or (addressViolation c lo) := if_neg h

theorem dualViolation_of_outOfImage {c : Config} {hi lo : Desc} (hw : ¬ 32 < hi.width.toNat + lo.width.toNat)
    (h : Spec.outOfImage c hi.addr ∨ Spec.outOfImage c lo.addr) : dualViolation c hi lo = some .addressOutOfRange := by
  rw [dualViolation_of_not_wide hw]
  by_cases hhi : Spec.outOfImage c hi.addr
  · rw [addressViolation_of_outOfImage hhi, Option.some_or]
  · rw [addressViolation_eq_none_iff.2 hhi, Option.none_or, addressViolation_of_outOfImage (h.resolve_left hhi)]

theorem dualViolation_eq_none_iff {c : Config} {hi lo : Desc} :
    dualViolation c hi lo = none ↔ ¬ 32 < hi.width.toNat + lo.width.toNat
      ∧ ¬ Spec.outOfImage c hi.addr ∧ ¬ Spec.outOfImage c lo.addr := by
  by_cases hw : 32 < hi.width.toNat + lo.width.toNat
  · simp [dualViolation_of_wide hw, hw]
  · rw [dualViolation_of_not_wide hw, Option.or_eq_none_iff, addressViolation_eq_none_iff, addressViolation_eq_none_iff]
    exact (and_iff_right hw).symm

/-! ## The fields of the image (R122, R125, R128) -/

theorem rawField_eq_raw (c : Config) (ee : Memory Word) (d : Desc) : rawField c ee d = Spec.raw c ee d := by
  rw [rawField, Spec.raw, Nat.shiftRight_eq_div_pow, Nat.and_two_pow_sub_one_eq_mod]
  rfl

theorem sextNat_eq_sext (n v : ℕ) : sextNat n v = Spec.sext n v := by
  simp [sextNat, Spec.sext, Nat.testBit_eq_decide_div_mod_eq]

theorem rawField_lt_two_pow_width (c : Config) (ee : Memory Word) (d : Desc) : rawField c ee d < 2 ^ d.width.toNat :=
  Nat.mod_lt _ (Nat.two_pow_pos _)

/-- A field has no more bits than its word has from START on. -/
theorem rawField_lt_two_pow_rest (c : Config) (ee : Memory Word) (d : Desc) :
    rawField c ee d < 2 ^ (16 - d.start.toNat) := by
  have hstart : d.start.toNat < 2 ^ 4 := d.start.isLt
  refine (Nat.mod_le _ _).trans_lt (Nat.div_lt_of_lt_mul ?_)
  rw [← pow_add, Nat.add_sub_cancel' (by omega)]
  exact BitVec.isLt _

theorem rawField_lt_two_pow_min (c : Config) (ee : Memory Word) (d : Desc) :
    rawField c ee d < 2 ^ min d.width.toNat (16 - d.start.toNat) := by
  rcases min_choice d.width.toNat (16 - d.start.toNat) with h | h <;> rw [h]
  · exact rawField_lt_two_pow_width c ee d
  · exact rawField_lt_two_pow_rest c ee d

/-- The bits of lo lie below those of hi, so that joining them adds them (R128). -/
theorem dualRaw_eq_add (c : Config) (ee : Memory Word) (hi lo : Desc) :
    dualRaw c ee hi lo = rawField c ee hi * 2 ^ lo.width.toNat + rawField c ee lo := by
  rw [dualRaw, mul_comm, Nat.two_pow_add_eq_or_of_lt (rawField_lt_two_pow_width c ee lo)]

theorem dualRaw_eq_joined (c : Config) (ee : Memory Word) (hi lo : Desc) :
    dualRaw c ee hi lo = Spec.joined c ee hi lo := by
  rw [dualRaw, Spec.joined, rawField_eq_raw, rawField_eq_raw, Nat.shiftLeft_eq]

theorem dualRaw_lt_two_pow_width (c : Config) (ee : Memory Word) (hi lo : Desc) :
    dualRaw c ee hi lo < 2 ^ (hi.width.toNat + lo.width.toNat) := by
  have hlo := rawField_lt_two_pow_width c ee lo
  rw [dualRaw_eq_add, pow_add]
  calc rawField c ee hi * 2 ^ lo.width.toNat + rawField c ee lo
      < (rawField c ee hi + 1) * 2 ^ lo.width.toNat := by rw [Nat.succ_mul]; omega
    _ ≤ 2 ^ hi.width.toNat * 2 ^ lo.width.toNat :=
      Nat.mul_le_mul_right _ (rawField_lt_two_pow_width c ee hi)

theorem singleField_eq_sext (c : Config) (ee : Memory Word) (sgn : Bool) (d : Desc) :
    singleField c ee sgn d = if sgn then Spec.sext d.width.toNat (rawField c ee d) else (rawField c ee d : ℤ) := by
  rw [singleField, sextNat_eq_sext]

theorem dualField_eq_sext (c : Config) (ee : Memory Word) (sgn : Bool) (hi lo : Desc) :
    dualField c ee sgn hi lo = if sgn then Spec.sext (hi.width.toNat + lo.width.toNat) (dualRaw c ee hi lo)
      else (dualRaw c ee hi lo : ℤ) := by
  rw [dualField, sextNat_eq_sext]

/-! ## The range of a field (R124) -/

/-- Where R124 says that every field value lies. -/
def InFieldRange (z : ℤ) : Prop := -(2 ^ 31) ≤ z ∧ z < 2 ^ 32

theorem inFieldRange_natCast {n v : ℕ} (hn : n ≤ 32) (hv : v < 2 ^ n) : InFieldRange v := by
  have hle : 2 ^ n ≤ 2 ^ 32 := Nat.pow_le_pow_right (by norm_num) hn
  unfold InFieldRange
  omega

/-- Only a value of at least 2^(n − 1) has the sign bit of n bits, so that subtracting 2^n leaves at least −2^(n − 1). -/
theorem inFieldRange_sext {n v : ℕ} (h1 : 1 ≤ n) (hn : n ≤ 32) (hv : v < 2 ^ n) : InFieldRange (Spec.sext n v) := by
  rw [← sextNat_eq_sext, sextNat]
  split
  · next hbit =>
    have hge : 2 ^ (n - 1) ≤ v := Nat.ge_two_pow_of_testBit hbit
    have hhalf : 2 ^ n = 2 * 2 ^ (n - 1) := (mul_pow_sub_one (by omega) 2).symm
    have hle : 2 ^ (n - 1) ≤ 2 ^ 31 := Nat.pow_le_pow_right (by norm_num) (by omega)
    have hcast : (2 ^ n : ℤ) = ((2 ^ n : ℕ) : ℤ) := by push_cast; rfl
    unfold InFieldRange
    rw [hcast]
    omega
  · exact inFieldRange_natCast hn hv

/-- A field of n bits, sign-extended or not. -/
theorem inFieldRange_field {n v : ℕ} (sgn : Bool) (h1 : 1 ≤ n) (hn : n ≤ 32) (hv : v < 2 ^ n) :
    InFieldRange (if sgn then Spec.sext n v else (v : ℤ)) := by
  cases sgn
  · exact inFieldRange_natCast hn hv
  · exact inFieldRange_sext h1 hn hv

theorem inFieldRange_singleField {c : Config} {ee : Memory Word} {d : Desc} (sgn : Bool) (hd : Spec.wellFormed d) :
    InFieldRange (singleField c ee sgn d) := by
  rw [singleField_eq_sext]
  exact inFieldRange_field sgn hd.1 hd.2 (rawField_lt_two_pow_width c ee d)

theorem inFieldRange_rawField {c : Config} {ee : Memory Word} {d : Desc} (hd : Spec.wellFormed d) :
    InFieldRange (rawField c ee d) := inFieldRange_singleField (c := c) (ee := ee) false hd

theorem inFieldRange_dualField {c : Config} {ee : Memory Word} {hi lo : Desc} (sgn : Bool) (hhi : Spec.wellFormed hi)
    (hw : hi.width.toNat + lo.width.toNat ≤ 32) : InFieldRange (dualField c ee sgn hi lo) := by
  rw [dualField_eq_sext]
  exact inFieldRange_field sgn (hhi.1.trans (Nat.le_add_right _ _)) hw (dualRaw_lt_two_pow_width c ee hi lo)

theorem InFieldRange.toInt_ofInt {z : ℤ} (h : InFieldRange z) : (BitVec.ofInt 64 z).toInt = z := by
  obtain ⟨hlo, hhi⟩ := h
  exact BitVec.toInt_ofInt_eq_self (by decide) (by omega) (by omega)

/-! ## What a command leaves -/

theorem State.extracted_violation (s : State) {x : Status} (hx : x.contract = true) (z : ℤ) :
    s.extracted (some x) z = Spec.violated s x := by
  simp [State.extracted, State.raise, Spec.violated, hx]

theorem givesXr_of_exec {i : Instr} {s : State} {z : ℤ} (h : exec i s = .next (s.setXr z).done) (hlo : -(2 ^ 63) ≤ z)
    (hhi : z < 2 ^ 63) : Spec.givesXr i s z :=
  ⟨BitVec.ofInt 64 z, BitVec.toInt_ofInt_eq_self (by decide) hlo hhi, h⟩

section

variable {i : Instr} {s : State} {v : Option Status} {z : ℤ}

theorem exec_of_violation {x : Status} (h : exec i s = .next (s.extracted v z)) (hv : v = some x)
    (hx : x.contract = true) : exec i s = .next (Spec.violated s x) := by
  rw [h, hv, State.extracted_violation s hx]

theorem givesXr_of_no_violation (h : exec i s = .next (s.extracted v z)) (hv : v = none) (hz : InFieldRange z) :
    Spec.givesXr i s z := by
  subst hv
  obtain ⟨hlo, hhi⟩ := hz
  exact givesXr_of_exec h (by omega) (by omega)

end

/-- Every extraction ends with a contract violation or with a field value (R121, R125, R127). -/
theorem perform_extracts {i : Instr} (s : State) (hextracts : Spec.extracts i) (hwf : i.wf = true) :
    ∃ v z, s.perform i = s.extracted v z ∧ (∀ x, v = some x → x.contract = true) ∧ (v = none → InFieldRange z) := by
  cases i with
  | xraw d =>
    exact ⟨_, _, rfl, fun _ => addressViolation_contract, fun _ => inFieldRange_rawField ((Desc.wf_iff d).1 hwf)⟩
  | xsgl sgn d =>
    exact ⟨_, _, rfl, fun _ => addressViolation_contract, fun _ => inFieldRange_singleField sgn ((Desc.wf_iff d).1 hwf)⟩
  | xdbl sgn hi lo =>
    have hhi : hi.wf = true := (Bool.and_eq_true_iff.1 hwf).1
    refine ⟨_, _, rfl, fun _ => dualViolation_contract, fun hnone => ?_⟩
    obtain ⟨hw, -, -⟩ := dualViolation_eq_none_iff.1 hnone
    exact inFieldRange_dualField sgn ((Desc.wf_iff hi).1 hhi) (not_lt.1 hw)
  | _ => exact hextracts.elim

/-- XR after an extraction that ends OK (R124). -/
theorem inFieldRange_xr_of_extracts {i : Instr} {s t : State} (hi : Spec.extracts i) (h : exec i s = .next t)
    (hok : t.status = .ok) : InFieldRange t.xr.toInt := by
  obtain ⟨-, rfl⟩ | ⟨-, x, rfl | rfl, rfl⟩ | ⟨-, hwf, -, rfl⟩ := exec_cases h
  · nomatch hok
  · nomatch hok
  · nomatch hok
  · obtain ⟨v, z, hperform, hcontract, hrange⟩ := perform_extracts s hi hwf
    rw [hperform] at hok ⊢
    obtain ⟨x, hv, hraise⟩ | ⟨hv, hxr⟩ := s.extracted_cases v z
    · rw [hraise, State.raise_status] at hok
      rw [hok] at hv
      exact absurd (hcontract .ok hv) (by decide)
    · have hz := hrange hv
      rw [hxr, InFieldRange.toInt_ofInt hz]
      exact hz

/-! ## SEXT and SCMUL: the checks of XR (R126, R131) -/

/-- SEXT sees XR's own sign bit of w bits: a nonnegative XR is its bits as a natural number. -/
theorem sextNat_xrInt {s : State} (n : ℕ) (h : 0 ≤ s.xr.toInt) :
    sextNat n s.xrInt.toNat = if s.xr.getLsbD (n - 1) then s.xr.toInt - 2 ^ n else s.xr.toInt := by
  have hbits : s.xr.toInt = s.xr.toNat := by
    rw [BitVec.toInt_eq_toNat_cond, if_pos (BitVec.toInt_pos_iff.1 h)]
  rw [State.xrInt, sextNat, hbits, Int.toNat_natCast, BitVec.testBit_toNat]

theorem perform_sext_of_inRange {s : State} {w : Word} (h : 0 ≤ s.xr.toInt ∧ s.xr.toInt < 2 ^ w.toNat) :
    s.perform (.sext w) =
      (s.setXr (if s.xr.getLsbD (w.toNat - 1) then s.xr.toInt - 2 ^ w.toNat else s.xr.toInt)).done := by
  rw [← sextNat_xrInt _ h.1]
  exact if_pos h

theorem perform_sext_of_not_inRange {s : State} {w : Word} (h : ¬ (0 ≤ s.xr.toInt ∧ s.xr.toInt < 2 ^ w.toNat)) :
    s.perform (.sext w) = s.refuse .badOperand := if_neg h

theorem fitsXr_iff (z : ℤ) : fitsXr z = true ↔ -(2 ^ 63) ≤ z ∧ z < 2 ^ 63 := by
  rw [fitsXr, Bool.and_eq_true, decide_eq_true_iff, decide_eq_true_iff]

theorem perform_scmul_of_fits {s : State} {e : BitVec 6}
    (h : -(2 ^ 63) ≤ s.xr.toInt * 2 ^ e.toNat ∧ s.xr.toInt * 2 ^ e.toNat < 2 ^ 63) :
    s.perform (.scmul e) = (s.setXr (s.xr.toInt * 2 ^ e.toNat)).done := if_pos ((fitsXr_iff _).2 h)

theorem perform_scmul_of_not_fits {s : State} {e : BitVec 6}
    (h : ¬ (-(2 ^ 63) ≤ s.xr.toInt * 2 ^ e.toNat ∧ s.xr.toInt * 2 ^ e.toNat < 2 ^ 63)) :
    s.perform (.scmul e) = s.refuse .badOperand := if_neg (mt (fitsXr_iff _).1 h)

end Sys2Proof.Machine

namespace Sys2Proof

open Machine

/-! ## Exact results of the default NUM (R15, R130) -/

/-- A 24-bit significand times a power of two up to that of the greatest finite value is a binary32 magnitude. -/
theorem F32.exists_mag_eq {k t : ℕ} (hk : k < 2 ^ 24) (ht : t ≤ 253) : ∃ y, F32.finite y = true ∧ F32.mag y = k * 2 ^ t := by
  have hpattern : ∀ {sh m : ℕ}, m < 2 ^ 24 → sh ≤ 253 → (sh = 0 ∨ 2 ^ 23 ≤ m) →
      ∃ y, F32.finite y = true ∧ F32.mag y = m * 2 ^ sh := by
    intro sh m hm hsh hreach
    have hb : sh * 2 ^ 23 + m < 0x7F800000 := by omega
    refine ⟨BitVec.ofNat 32 (sh * 2 ^ 23 + m + signBits false), ?_, F32.mag_ofNat hm.le hreach hb⟩
    rw [F32.finite, F32.expField_ofNat (by omega), decide_eq_true_iff]
    omega
  induction t generalizing k with
  | zero => exact hpattern hk ht (.inl rfl)
  | succ t ih =>
    rcases lt_or_ge k (2 ^ 23) with hlt | hge
    · obtain ⟨y, hy, hmag⟩ := ih (k := k * 2) (by omega) (by omega)
      exact ⟨y, hy, by rw [hmag, pow_succ', mul_assoc]⟩
    · exact hpattern hk ht (.inr hge)

/-- Every finite magnitude is below the least value that rounds beyond every finite one. -/
theorem F32.mag_lt_overflow {y : F32} (hy : F32.finite y = true) : (F32.mag y : ℝ) < (2 ^ 25 - 1) * 2 ^ 252 := by
  have hne : F32.expField y ≠ 255 := of_decide_eq_true hy
  have hexp : F32.expField y < 256 := Nat.mod_lt _ (by norm_num)
  have hfrac : y.toNat % 2 ^ 23 < 2 ^ 23 := Nat.mod_lt _ (by norm_num)
  have hle : F32.mag y ≤ 16777215 * 2 ^ 253 := by
    unfold F32.mag
    split
    · omega
    · exact Nat.mul_le_mul (by omega) (Nat.pow_le_pow_right (by norm_num) (by omega))
  calc (F32.mag y : ℝ) ≤ 16777215 * 2 ^ 253 := by exact_mod_cast hle
    _ < (2 ^ 25 - 1) * 2 ^ 252 := by norm_num

/-- What rounds below the least value without a finite result is a finite value. -/
theorem Spec.rounded.exists_num {neg : Bool} {v : ℝ} {r : FVal} (h : Spec.rounded neg v r)
    (hv : v < (2 ^ 25 - 1) * 2 ^ 252) : ∃ x, r = .num x ∧ F32.finite x = true ∧ F32.neg x = neg := by
  obtain ⟨hover, hnum, hnearest⟩ := h
  obtain ⟨x, rfl⟩ := hnum fun hr => absurd (hover.1 hr) (not_le.2 hv)
  obtain ⟨hfinite, hneg, -⟩ := hnearest x rfl
  exact ⟨x, rfl, hfinite, hneg⟩

/-- An exact value that is a binary32 magnitude is its own rounding: no other is as near. -/
theorem Spec.rounded.exact {neg : Bool} {v : ℝ} {x : F32} {k t : ℕ} (h : Spec.rounded neg v (.num x))
    (hv : v = ((k * 2 ^ t : ℕ) : ℝ)) (hk : k < 2 ^ 24) (ht : t ≤ 253) : F32.mag x = k * 2 ^ t := by
  obtain ⟨y, hy, hmag⟩ := F32.exists_mag_eq hk ht
  obtain ⟨-, -, hnearest⟩ := h
  obtain ⟨-, -, hdist⟩ := hnearest x rfl
  have hle := (hdist y hy).1
  rw [hmag, hv, sub_self, abs_zero] at hle
  exact_mod_cast sub_eq_zero.1 (abs_nonpos_iff.1 hle)

/-- i2f of an integer of 64 bits is a number (R15). -/
theorem i2f_eq_num {z : ℤ} (hz : z.natAbs ≤ 2 ^ 63) :
    ∃ x, i2f .binary32 z = .num x ∧ F32.finite x = true ∧ F32.neg x = decide (z < 0) := by
  refine (rounded_i2f z).exists_num ?_
  have hz' : (z.natAbs : ℝ) ≤ 2 ^ 63 := by exact_mod_cast hz
  calc (z.natAbs : ℝ) * 2 ^ 149 ≤ 2 ^ 63 * 2 ^ 149 := mul_le_mul_of_nonneg_right hz' (by positivity)
    _ < (2 ^ 25 - 1) * 2 ^ 252 := by norm_num

theorem mag_of_i2f {z : ℤ} {x : F32} (h : i2f .binary32 z = .num x) (hz : z.natAbs < 2 ^ 24) :
    F32.mag x = z.natAbs * 2 ^ 149 :=
  Spec.rounded.exact (h ▸ rounded_i2f z) (by rw [Nat.cast_mul, Nat.cast_pow, Nat.cast_two]) hz (by norm_num)

/-- pow2 of an exponent of 6 bits is exact. -/
theorem pow2_eq_num {e : ℕ} (he : e < 2 ^ 6) :
    ∃ y, pow2 .binary32 e = .num y ∧ F32.finite y = true ∧ F32.neg y = false ∧ F32.mag y = 2 ^ e * 2 ^ 149 := by
  have hvalue : (2 : ℝ) ^ ((e : ℤ) + 149) = ((1 * 2 ^ (e + 149) : ℕ) : ℝ) := by
    rw [one_mul, Nat.cast_pow, Nat.cast_two, ← zpow_natCast]
    rfl
  have hrounded := rounded_pow2 e
  have hlt : (2 : ℝ) ^ (e + 149) < (2 ^ 25 - 1) * 2 ^ 252 :=
    calc (2 : ℝ) ^ (e + 149) ≤ 2 ^ 252 := pow_le_pow_right₀ (by norm_num) (by omega)
      _ < (2 ^ 25 - 1) * 2 ^ 252 := by norm_num
  obtain ⟨y, hy, hfinite, hneg⟩ := hrounded.exists_num (by rwa [hvalue, one_mul, Nat.cast_pow, Nat.cast_two])
  have hmag := Spec.rounded.exact (hy ▸ hrounded) hvalue (by norm_num) (by omega)
  exact ⟨y, hy, hfinite, hneg, by rw [hmag, one_mul, pow_add]⟩

/-- Dividing by 2^e divides the magnitude, and then rounds (R130). -/
theorem rounded_div_two_pow {x y : F32} {e : ℕ} (hneg : F32.neg y = false) (hmag : F32.mag y = 2 ^ e * 2 ^ 149) :
    Spec.rounded (F32.neg x) ((F32.mag x : ℝ) / 2 ^ e) (F32.div x y) := by
  have h := F32.rounded_div x (y := y) (by rw [hmag]; positivity)
  rwa [hneg, Bool.bne_false, hmag, Nat.cast_mul, Nat.cast_pow, Nat.cast_pow, Nat.cast_two,
    mul_div_mul_right _ _ (by positivity)] at h

theorem F32.units_mul_of_mag_mul {x : F32} {z : ℤ} {a b : ℕ} (hneg : F32.neg x = decide (z < 0))
    (hmag : F32.mag x * a = z.natAbs * b) : F32.units x * a = z * b := by
  have hmag' : (F32.mag x : ℤ) * a = z.natAbs * b := by exact_mod_cast hmag
  unfold F32.units
  rw [hneg]
  rcases lt_or_ge z 0 with hz | hz
  · rw [decide_eq_true hz, if_pos rfl, neg_mul, hmag', Int.ofNat_natAbs_of_nonpos hz.le, neg_mul, neg_neg]
  · rw [decide_eq_false (not_lt.2 hz), if_neg Bool.false_ne_true, hmag', Int.natAbs_of_nonneg hz]

/-- The quotient of SCDIV in the default NUM is a number, and exact where i2f is (R130). -/
theorem i2f_div_pow2_eq_num {z : ℤ} {e : ℕ} (hz : z.natAbs ≤ 2 ^ 63) (he : e < 2 ^ 6) :
    ∃ x, (i2f .binary32 z).div .binary32 (pow2 .binary32 e) = .num x
      ∧ (z.natAbs < 2 ^ 24 → F32.units x * 2 ^ e = z * 2 ^ 149) := by
  obtain ⟨a, ha, hafinite, haneg⟩ := i2f_eq_num hz
  obtain ⟨b, hb, hbfinite, hbneg, hbmag⟩ := pow2_eq_num he
  have hrounded := rounded_div_two_pow (x := a) hbneg hbmag
  have hsmall : (F32.mag a : ℝ) / 2 ^ e < (2 ^ 25 - 1) * 2 ^ 252 :=
    calc (F32.mag a : ℝ) / 2 ^ e ≤ F32.mag a := div_le_self (Nat.cast_nonneg _) (one_le_pow₀ (by norm_num))
      _ < (2 ^ 25 - 1) * 2 ^ 252 := F32.mag_lt_overflow hafinite
  obtain ⟨x, hx, -, hxneg⟩ := hrounded.exists_num hsmall
  refine ⟨x, by rw [ha, hb, FVal.div_num hafinite hbfinite, hx], fun hexact => ?_⟩
  have hsplit : 2 ^ 149 = 2 ^ (149 - e) * 2 ^ e := by rw [← pow_add, Nat.sub_add_cancel (by omega)]
  have hvalue : (F32.mag a : ℝ) / 2 ^ e = ((z.natAbs * 2 ^ (149 - e) : ℕ) : ℝ) := by
    rw [mag_of_i2f ha hexact, hsplit, ← mul_assoc, Nat.cast_mul _ (2 ^ e), Nat.cast_pow 2 e, Nat.cast_two,
      mul_div_cancel_right₀ _ (by positivity)]
  have hmag : F32.mag x = z.natAbs * 2 ^ (149 - e) := Spec.rounded.exact (hx ▸ hrounded) hvalue hexact (by omega)
  have hunits := F32.units_mul_of_mag_mul (x := x) (z := z) (a := 2 ^ e) (b := 2 ^ 149) (hxneg.trans haneg)
    (by rw [hmag, mul_assoc, ← hsplit])
  exact_mod_cast hunits

/-! ## The statements -/

/-- Settles O10: a violation where the address is outside the image, else the raw field. -/
theorem xrawExtractsRawField : Obligations.XrawExtractsRawField := by
  intro d s hf
  refine checked_of_perform hf (Desc.wf_iff d) s.imageReadable_iff fun hd h => ⟨fun hout => ?_, fun hin => ?_⟩
  · exact exec_of_violation h (addressViolation_of_outOfImage hout) rfl
  · rw [← rawField_eq_raw]
    exact givesXr_of_no_violation h (addressViolation_eq_none_iff.2 hin) (inFieldRange_rawField hd)

/-- Settles O11: a violation where the address is outside the image, else the single field. -/
theorem xsglExtractsSingleField : Obligations.XsglExtractsSingleField := by
  intro sgn d s hf
  refine checked_of_perform hf (Desc.wf_iff d) s.imageReadable_iff fun hd h => ⟨fun hout => ?_, fun hin => ?_⟩
  · exact exec_of_violation h (addressViolation_of_outOfImage hout) rfl
  · rw [← rawField_eq_raw, ← singleField_eq_sext]
    exact givesXr_of_no_violation h (addressViolation_eq_none_iff.2 hin) (inFieldRange_singleField sgn hd)

/-- Settles O12: the violations in the order of R127, then the joined field. -/
theorem xdblExtractsDualField : Obligations.XdblExtractsDualField := by
  intro sgn hi lo s hf
  have hlegal : (Instr.xdbl sgn hi lo).wf = true ↔ Spec.wellFormed hi ∧ Spec.wellFormed lo :=
    Bool.and_eq_true_iff.trans (and_congr (Desc.wf_iff hi) (Desc.wf_iff lo))
  refine checked_of_perform hf hlegal s.imageReadable_iff fun hd h => ?_
  split
  · next hwide => exact exec_of_violation h (dualViolation_of_wide hwide) rfl
  · next hw =>
    refine ⟨fun hout => exec_of_violation h (dualViolation_of_outOfImage hw hout) rfl, fun hhi hlo => ?_⟩
    rw [← dualRaw_eq_joined, ← dualField_eq_sext]
    exact givesXr_of_no_violation h (dualViolation_eq_none_iff.2 ⟨hw, hhi, hlo⟩)
      (inFieldRange_dualField sgn hd.1 (not_lt.1 hw))

/-- Settles O13: the laws of the fields, and `inFieldRange_xr_of_extracts` for XR. -/
theorem fieldValuesFit : Obligations.FieldValuesFit := by
  refine ⟨fun c ee sgn hi lo hhi _ => ?_, fun i s t hi h hok => inFieldRange_xr_of_extracts hi h hok⟩
  obtain ⟨hmin, hmax⟩ := inFieldRange_singleField (c := c) (ee := ee) sgn hhi
  refine ⟨rawField_eq_raw c ee hi, rawField_lt_two_pow_min c ee hi, singleField_eq_sext c ee sgn hi, hmin, hmax,
    dualRaw_eq_add c ee hi lo, dualField_eq_sext c ee sgn hi lo, fun hw => ⟨?_, inFieldRange_dualField sgn hhi hw⟩⟩
  exact (dualRaw_lt_two_pow_width c ee hi lo).trans_le (Nat.pow_le_pow_right (by norm_num) hw)

/-- Settles O14: where XR is in range it is a natural number, and its bit w − 1 is the sign bit. -/
theorem sextExtendsXr : Obligations.SextExtendsXr := by
  intro w s hf
  have hlegal : (Instr.sext w).wf = true ↔ 1 ≤ w.toNat ∧ w.toNat ≤ 32 := by simp [Instr.wf, sextWidthOk]
  refine checked_of_perform hf hlegal (iff_of_true rfl trivial) fun ⟨_, hw⟩ h => ?_
  split
  · next hrange =>
    have hpow : (2 : ℤ) ^ w.toNat ≤ 2 ^ 32 := pow_le_pow_right₀ (by norm_num) hw
    rw [perform_sext_of_inRange hrange] at h
    refine givesXr_of_exec h ?_ ?_ <;> split <;> omega
  · next hrange => rw [h, perform_sext_of_not_inRange hrange]; rfl

/-- Settles O15: the register takes the quotient, which `i2f_div_pow2_eq_num` says is a number in the default NUM. -/
theorem scdivDividesXr : Obligations.ScdivDividesXr := by
  intro e s hf
  refine ⟨(scdivValue s e).toWord (s.free 0), exec_eq_perform hf rfl rfl, FVal.val_toWord _ _, fun hnum => ?_⟩
  have hxr : s.xr.toInt.natAbs ≤ 2 ^ 63 := by
    have hlo := s.xr.le_toInt
    have hhi := s.xr.toInt_lt
    omega
  obtain ⟨x, hx, hexact⟩ := i2f_div_pow2_eq_num hxr e.isLt
  have hvalue : scdivValue s e = .num x := by rw [scdivValue, hnum]; exact hx
  exact ⟨x, by rw [hvalue]; rfl, by rw [hvalue]; rfl, hexact⟩

/-- Settles O16: the product is the exact integer, so that what fits is what XR takes. -/
theorem scmulMultipliesXr : Obligations.ScmulMultipliesXr := by
  intro e s hf
  have hlegal : (Instr.scmul e).wf = true ↔ e.toNat ≤ 31 := decide_eq_true_iff
  refine checked_of_perform hf hlegal (iff_of_true rfl trivial) fun _ h => ?_
  split
  · next hfits =>
    rw [perform_scmul_of_fits hfits] at h
    exact givesXr_of_exec h hfits.1 hfits.2
  · next hfits => rw [h, perform_scmul_of_not_fits hfits]; rfl

/-- Settles O17: a 32-bit word is its own value in 64 bits. -/
theorem ldxLoadsXr : Obligations.LdxLoadsXr := by
  intro n s hf
  have hword : BitVec.ofInt 64 (n.toNat : ℤ) = n.setWidth 64 := by rw [BitVec.ofInt_natCast, BitVec.ofNat_toNat]
  rw [← hword]
  exact exec_eq_perform hf rfl rfl

end Sys2Proof
end

section
/-! The Hamming decoder (O19 to O22). Bit k of the syndrome is parity k (`testBit_syn`), so that the syndrome is linear and
each error pattern has the syndrome `syn_bit` gives it. `flipPos_synOf` finds a position by its syndrome, `exists_synOf_eq`
says that an injective SYN leaves no syndrome in 16..31 without a position, and the three equations of `hdec` then say what
every word decodes to. -/

namespace Sys2Proof

/-- A space that lists no index from n on reads as unlisted there. -/
theorem Memory.read_of_below {α : Type} [Inhabited α] {m : Memory α} {n i : ℕ} (h : m.below n = true) (hi : n ≤ i) :
    m.read i = Memory.unlisted α := by
  induction m with
  | nil => rfl
  | cons e rest ih =>
    obtain ⟨a, v⟩ := e
    obtain ⟨ha, hrest⟩ := (Memory.below_cons n a v rest).1 h
    rw [Memory.read_cons, if_neg (by omega), ih hrest]

end Sys2Proof

namespace Sys2Proof.Machine

/-! ## The exclusive-or over bit positions (R142) -/

theorem foldl_xor_distrib (f g : ℕ → Bool) (l : List ℕ) (a b : Bool) :
    l.foldl (fun x j => x ^^ (f j ^^ g j)) (a ^^ b)
      = (l.foldl (fun x j => x ^^ f j) a ^^ l.foldl (fun x j => x ^^ g j) b) := by
  induction l generalizing a b with
  | nil => rfl
  | cons j l ih =>
    have hcomm : ((a ^^ b) ^^ (f j ^^ g j)) = ((a ^^ f j) ^^ (b ^^ g j)) := by
      rw [Bool.xor_assoc, Bool.xor_assoc, Bool.xor_left_comm b]
    rw [List.foldl_cons, List.foldl_cons, List.foldl_cons, hcomm, ih]

theorem xorBits_xor (f g : ℕ → Bool) : (xorBits fun j => f j ^^ g j) = (xorBits f ^^ xorBits g) :=
  foldl_xor_distrib f g (List.range 16) false false

theorem parity_xor (c : Config) (a b : Word) (k : ℕ) : parity c (a ^^^ b) k = (parity c a k ^^ parity c b k) := by
  simp only [parity, ← xorBits_xor, BitVec.getLsbD_xor, Bool.and_xor_distrib_left]

/-! ## SYN is into 16..31 (R141) -/

theorem le_synOf (c : Config) (j : ℕ) : 16 ≤ c.synOf j := Nat.le_add_right _ _

theorem synOf_lt (c : Config) (j : ℕ) : c.synOf j < 32 := Nat.add_lt_add_left (BitVec.isLt _) 16

/-- Every position belongs to the overall parity (R145). -/
theorem testBit_four_synOf (c : Config) (j : ℕ) : (c.synOf j).testBit 4 = true := by
  have hlo := le_synOf c j
  have hhi := synOf_lt c j
  rw [Nat.testBit_eq_decide_div_mod_eq, decide_eq_true_iff]
  omega

theorem testBit_synOf_of_le {k : ℕ} (hk : 5 ≤ k) (c : Config) (j : ℕ) : (c.synOf j).testBit k = false :=
  Nat.testBit_lt_two_pow ((synOf_lt c j).trans_le (Nat.pow_le_pow_right (n := 2) two_pos hk))

theorem parity_four (c : Config) (w : Word) : parity c w 4 = overallParity w := by
  simp only [parity, overallParity, inPset, testBit_four_synOf, Bool.true_and]

theorem parity_of_le {k : ℕ} (hk : 5 ≤ k) (c : Config) (w : Word) : parity c w k = false := by
  simp only [parity, inPset, testBit_synOf_of_le hk, Bool.false_and]
  rfl

/-! ## The syndrome (R143) -/

theorem testBit_foldl_xor (f : ℕ → ℕ) (p : ℕ → Bool) (k : ℕ) (l : List ℕ) (a : ℕ) :
    ((l.filter p).foldl (fun x j => x ^^^ f j) a).testBit k
      = l.foldl (fun x j => x ^^ ((f j).testBit k && p j)) (a.testBit k) := by
  induction l generalizing a with
  | nil => rfl
  | cons j l ih =>
    cases hp : p j with
    | false => rw [List.filter_cons_of_neg (by simp [hp]), ih, List.foldl_cons, hp, Bool.and_false, Bool.xor_false]
    | true => rw [List.filter_cons_of_pos hp, List.foldl_cons, ih, List.foldl_cons, hp, Bool.and_true, Nat.testBit_xor]

theorem testBit_syn (c : Config) (w : Word) (k : ℕ) : (Spec.syn c w).testBit k = parity c w k := by
  rw [Spec.syn, testBit_foldl_xor, Nat.zero_testBit]
  rfl

theorem syn_lt (c : Config) (w : Word) : Spec.syn c w < 32 :=
  Nat.lt_pow_two_of_testBit (n := 5) _ fun k hk => (testBit_syn c w k).trans (parity_of_le hk c w)

theorem syndrome_eq_syn (c : Config) (w : Word) : syndrome c w = Spec.syn c w := by
  have hlt := syn_lt c w
  rw [syndrome, ← parity_four c w]
  simp only [← testBit_syn, Nat.toNat_testBit]
  omega

theorem syn_xor (c : Config) (a b : Word) : Spec.syn c (a ^^^ b) = Spec.syn c a ^^^ Spec.syn c b :=
  Nat.eq_of_testBit_eq fun k => by rw [Nat.testBit_xor, testBit_syn, testBit_syn, testBit_syn, parity_xor]

theorem filter_getLsbD_bit : ∀ j < 16, (List.range 16).filter (fun i => (Spec.bit j).getLsbD i) = [j] := by decide

/-- A single flipped bit has its own syndrome (R141). -/
theorem syn_bit (c : Config) {j : ℕ} (hj : j < 16) : Spec.syn c (Spec.bit j) = c.synOf j := by
  rw [Spec.syn, filter_getLsbD_bit j hj, List.foldl_cons, Nat.zero_xor, List.foldl_nil]

theorem syn_flip {c : Config} {w : Word} {j : ℕ} (hw : Spec.syn c w = 0) (hj : j < 16) :
    Spec.syn c (w ^^^ Spec.bit j) = c.synOf j := by
  rw [syn_xor, syn_bit c hj, hw, Nat.zero_xor]

theorem syn_flip_flip {c : Config} {w : Word} {i j : ℕ} (hw : Spec.syn c w = 0) (hi : i < 16) (hj : j < 16) :
    Spec.syn c (w ^^^ Spec.bit i ^^^ Spec.bit j) = c.synOf i ^^^ c.synOf j := by
  rw [syn_xor, syn_flip hw hi, syn_bit c hj]

/-- Two flipped bits leave the overall parity at 0 (R145). -/
theorem synOf_xor_lt (c : Config) (i j : ℕ) : c.synOf i ^^^ c.synOf j < 16 := by
  refine Nat.lt_pow_two_of_testBit (n := 4) _ fun k hk => ?_
  rw [Nat.testBit_xor]
  rcases Nat.eq_or_lt_of_le hk with rfl | hk
  · rw [testBit_four_synOf, testBit_four_synOf, Bool.xor_self]
  · rw [testBit_synOf_of_le hk, testBit_synOf_of_le hk, Bool.xor_self]

/-! ## The flip table (R141) -/

theorem synInjective_iff (c : Config) :
    c.synInjective = true ↔ ∀ i j, i < 16 → j < 16 → c.synOf i = c.synOf j → i = j := by
  simp only [Config.synInjective, List.all_eq_true, List.mem_range, Bool.or_eq_true, beq_iff_eq, bne_iff_ne]
  exact ⟨fun h i j hi hj heq => (h i hi j hj).resolve_right (not_not_intro heq),
    fun h i hi j hj => or_iff_not_imp_right.2 fun hne => h i j hi hj (not_not.1 hne)⟩

/-- An injective SYN is onto 16..31. -/
theorem exists_synOf_eq {c : Config} (hsyn : c.synInjective = true) {s : ℕ} (hlo : 16 ≤ s) (hhi : s < 32) :
    ∃ j < 16, c.synOf j = s := by
  have hmaps : Set.MapsTo c.synOf (Finset.range 16) (Finset.Ico 16 32) := fun j _ =>
    Finset.mem_coe.2 (Finset.mem_Ico.2 ⟨le_synOf c j, synOf_lt c j⟩)
  have hinj : Set.InjOn c.synOf (Finset.range 16) := fun i hi j hj heq =>
    (synInjective_iff c).1 hsyn i j (Finset.mem_range.1 hi) (Finset.mem_range.1 hj) heq
  obtain ⟨j, hj, heq⟩ := Finset.surjOn_of_injOn_of_card_le c.synOf hmaps hinj (by simp)
    (Finset.mem_coe.2 (Finset.mem_Ico.2 ⟨hlo, hhi⟩))
  exact ⟨j, Finset.mem_range.1 hj, heq⟩

theorem flipPos_synOf {c : Config} (hsyn : c.synInjective = true) {j : ℕ} (hj : j < 16) :
    flipPos c (c.synOf j) = some j := by
  cases hfind : flipPos c (c.synOf j) with
  | none => exact absurd BEq.rfl (List.find?_eq_none.1 hfind j (List.mem_range.2 hj))
  | some i =>
    have hi : i < 16 := List.mem_range.1 (List.mem_of_find?_eq_some hfind)
    have heq : c.synOf i = c.synOf j := by simpa using List.find?_some hfind
    rw [(synInjective_iff c).1 hsyn i j hi hj heq]

/-! ## The word function (R144) -/

theorem hdec_of_syn_zero {c : Config} {w : Word} (h : Spec.syn c w = 0) : hdec c w = (w &&& 0x07FF, .clean) := by
  rw [hdec, correct, syndrome_eq_syn, if_pos h]
  rfl

theorem hdec_of_syn_low {c : Config} {w : Word} (h0 : Spec.syn c w ≠ 0) (h : ¬ 16 ≤ Spec.syn c w) :
    hdec c w = (w &&& 0x07FF, .uncorrectable) := by
  rw [hdec, correct, syndrome_eq_syn, if_neg h0, if_neg h]
  rfl

theorem hdec_of_syn_eq_synOf {c : Config} (hsyn : c.synInjective = true) {w : Word} {j : ℕ} (hj : j < 16)
    (h : Spec.syn c w = c.synOf j) : hdec c w = ((w ^^^ Spec.bit j) &&& 0x07FF, .corrected) := by
  have hlo := le_synOf c j
  rw [hdec, correct, syndrome_eq_syn, h, if_neg (by omega), if_pos hlo, flipPos_synOf hsyn hj]
  rfl

/-- The status of a word depends on its syndrome alone, whatever SYN is. -/
theorem hdec_status (c : Config) (w : Word) :
    (hdec c w).2 = if Spec.syn c w = 0 then .clean else if 16 ≤ Spec.syn c w then .corrected else .uncorrectable := by
  rw [hdec, correct, syndrome_eq_syn]
  split
  · rfl
  · split <;> rfl

theorem hdec_clean_iff (c : Config) (w : Word) : (hdec c w).2 = .clean ↔ Spec.syn c w = 0 := by
  rw [hdec_status]
  split
  · simp [*]
  · split <;> simp [*]

theorem hdec_uncorrectable_iff (c : Config) (w : Word) :
    (hdec c w).2 = .uncorrectable ↔ 1 ≤ Spec.syn c w ∧ Spec.syn c w ≤ 15 := by
  rw [hdec_status]
  split
  · simp [*]
  · split <;> simp <;> omega

/-- The model's word function is R144's where SYN is a bijection. -/
theorem hdecGives_hdec {c : Config} (hsyn : c.synInjective = true) (w : Word) :
    Spec.hdecGives c w (hdec c w).1 (hdec c w).2 := by
  unfold Spec.hdecGives
  split
  · next h0 => rw [hdec_of_syn_zero h0]; exact ⟨rfl, rfl⟩
  · next h0 =>
    split
    · next hlo =>
      obtain ⟨j, hj, heq⟩ := exists_synOf_eq hsyn hlo (syn_lt c w)
      rw [hdec_of_syn_eq_synOf hsyn hj heq.symm]
      exact ⟨⟨j, hj, heq, rfl⟩, rfl⟩
    · next hlo => rw [hdec_of_syn_low h0 hlo]; exact ⟨rfl, rfl⟩

/-! ## The scan (R150) -/

theorem EccStatus.max_eq_uncorrectable_iff (a b : EccStatus) :
    a.max b = .uncorrectable ↔ a = .uncorrectable ∨ b = .uncorrectable := by
  cases a <;> cases b <;> decide

theorem EccStatus.max_eq_clean_iff (a b : EccStatus) : a.max b = .clean ↔ a = .clean ∧ b = .clean := by
  cases a <;> cases b <;> decide

theorem foldl_max_eq_uncorrectable_iff (f : ℕ → EccStatus) (l : List ℕ) (a : EccStatus) :
    l.foldl (fun worst i => worst.max (f i)) a = .uncorrectable
      ↔ a = .uncorrectable ∨ ∃ i ∈ l, f i = .uncorrectable := by
  induction l generalizing a with
  | nil => simp
  | cons i l ih => rw [List.foldl_cons, ih, EccStatus.max_eq_uncorrectable_iff, or_assoc, List.exists_mem_cons_iff]

theorem foldl_max_eq_clean_iff (f : ℕ → EccStatus) (l : List ℕ) (a : EccStatus) :
    l.foldl (fun worst i => worst.max (f i)) a = .clean ↔ a = .clean ∧ ∀ i ∈ l, f i = .clean := by
  induction l generalizing a with
  | nil => simp
  | cons i l ih => rw [List.foldl_cons, ih, EccStatus.max_eq_clean_iff, and_assoc, List.forall_mem_cons]

theorem isWorst_scanWorst (c : Config) (ee : Memory Word) : Spec.isWorst c ee (scanWorst c ee) := by
  rw [scanWorst_eq]
  constructor
  · rw [foldl_max_eq_uncorrectable_iff]
    simp only [reduceCtorEq, false_or, mem_scanIndices, hdec_uncorrectable_iff, Spec.someUncorrectable, and_assoc]
  · rw [foldl_max_eq_clean_iff]
    simp only [true_and, mem_scanIndices, hdec_clean_iff, Spec.allValid, and_imp]

theorem read_scanImage_scanned {c : Config} {ee : Memory Word} {i : ℕ} (hlo : 16 ≤ i) (hhi : i ≤ 831) :
    (scanImage c ee).read i = (hdec c (ee.read i)).1 := by
  rw [read_scanImage, if_pos (by omega), scanWord, if_pos (scanned_iff.2 ⟨hlo, hhi⟩)]

theorem read_scanImage_unscanned {c : Config} {ee : Memory Word} {i : ℕ} (hee : ee.below 832 = true)
    (hi : i < 16 ∨ 831 < i) : (scanImage c ee).read i = ee.read i := by
  rw [read_scanImage]
  split
  · rw [scanWord, if_neg (mt scanned_iff.1 (by omega))]
  · next hge => rw [Memory.read_of_below hee (not_lt.1 hge)]

theorem EccStatus.status_eq_reported (e : EccStatus) : e.status = Spec.reported e := by cases e <;> rfl

theorem setXr_natCast (s : State) (w : Word) : s.setXr w.toNat = { s with xr := w.setWidth 64 } := by
  rw [State.setXr, BitVec.ofInt_natCast, BitVec.ofNat_toNat]

theorem mayScan_iff (s : State) : s.mayScan = true ↔ s.eeState = .raw := decide_eq_true_iff

end Sys2Proof.Machine

namespace Sys2Proof

open Machine

/-! ## The statements -/

/-- Settles O19, bit by bit: bit k of the syndrome is parity k, and each parity is linear. -/
theorem syndromeIsLinear : Obligations.SyndromeIsLinear := fun c a b =>
  ⟨syndrome_eq_syn c a, syn_lt c a, syn_xor c a b⟩

/-- Settles O20. Conversely, if two positions shared a syndrome, flipping both in the word 0 would go unseen. -/
theorem oneFlipCorrectedTwoDetected : Obligations.OneFlipCorrectedTwoDetected := by
  intro c
  refine ⟨fun hinj w hw => ⟨fun j hj => ?_, fun i j hi hj hne => ?_⟩, fun h i j hi hj heq => ?_⟩
  · rw [hdec_of_syn_eq_synOf ((synInjective_iff c).2 hinj) hj (syn_flip hw hj), BitVec.xor_assoc, BitVec.xor_self,
      BitVec.xor_zero]
  · have hlt := synOf_xor_lt c i j
    have hpos : c.synOf i ^^^ c.synOf j ≠ 0 := mt Nat.xor_eq_zero_iff.1 (mt (hinj i j hi hj) hne)
    rw [hdec_uncorrectable_iff, syn_flip_flip hw hi hj]
    omega
  · by_contra hne
    have hzero : Spec.syn c 0 = 0 := rfl
    have hunseen : Spec.syn c (0 ^^^ Spec.bit i ^^^ Spec.bit j) = 0 := by
      rw [syn_flip_flip hzero hi hj, heq, Nat.xor_self]
    have hdetected := (h 0 hzero).2 i j hi hj hne
    rw [hdec_of_syn_zero hunseen] at hdetected
    nomatch hdetected

/-- Settles O21: ECCW's pseudocode is the word function, which is R144's. -/
theorem eccwDecodesWord : Obligations.EccwDecodesWord := by
  intro w s hf hsyn
  refine ⟨_, _, hdecGives_hdec hsyn w, ?_⟩
  rw [exec_eq_perform hf rfl rfl, State.perform, setXr_natCast, EccStatus.status_eq_reported]

/-- Settles O22: what the scanned image reads as, and the worst status as a fold over the scanned indices. -/
theorem eccsScansImage : Obligations.EccsScansImage := by
  intro s hf hsyn _ hee
  refine checked_of_perform hf (iff_of_true rfl trivial) (mayScan_iff s) fun _ h => ?_
  refine ⟨scanImage s.cfg s.ee, scanWorst s.cfg s.ee, ?_, isWorst_scanWorst s.cfg s.ee, fun i hlo hhi => ?_,
    fun i hi => read_scanImage_unscanned hee hi⟩
  · rw [h, State.perform, State.scan, EccStatus.status_eq_reported]
  · rw [read_scanImage_scanned hlo hhi]
    exact ⟨⟨_, hdecGives_hdec hsyn _⟩, hdec_lt _ _⟩

end Sys2Proof
end

section
/-! The calibration extractor (O23 to O27). The rows of FDMAP mean what R161 says (`fieldInt_eq_fieldint`, `fieldIs_fieldVal`);
CALX meets a contract violation exactly when a row it evaluates fails (`tableViolation_eq_none_iff`); and the list it
keeps of broken pixels is the only one in increasing order (`listsBroken_iff`). CALX then is what it raises (`calxFailure`)
and, where it raises nothing, what the committed CAL reads as. -/

namespace Sys2Proof.Machine

variable {c : Config} {ee : Memory Word}

/-! ## The value of a row (R161) -/

theorem fieldInt_eq_fieldint (c : Config) (ee : Memory Word) (n : RowName) :
    fieldInt c ee n = Spec.fieldint c ee n := by
  unfold fieldInt Spec.fieldint
  cases (c.row n).lo with
  | none => exact (singleField_eq_sext c ee _ _).trans (by rw [rawField_eq_raw])
  | some lo => exact (dualField_eq_sext c ee _ _ lo).trans (by rw [dualRaw_eq_joined])

theorem rowExp_eq_expOf (c : Config) (ee : Memory Word) (n : RowName) : rowExp c ee n = Spec.expOf c ee n := by
  unfold rowExp Spec.expOf
  cases (c.row n).exp with
  | const e => rfl
  | ofRow m bias => exact congrArg (· + bias) (fieldInt_eq_fieldint c ee m)

/-- Where z * 2^e is an integer, the model uses that integer. -/
theorem shiftInt_of_scaled {z e x : ℤ} (h : Spec.scaled z e x) : shiftInt z e = some x := by
  unfold Spec.scaled at h
  rw [shiftInt_eq_some]
  split at h
  · next he => exact .inl ⟨he, h⟩
  · next he => exact .inr ⟨not_le.1 he, h⟩

/-- What the model reads by fieldval is R161's fieldval, whichever number of a draw it is given. -/
theorem fieldIs_fieldVal (c : Config) (ee : Memory Word) (d : ℕ) (n : RowName) :
    Spec.fieldIs c ee n (fieldVal c ee d n) := by
  unfold Spec.fieldIs fieldVal
  rw [fieldInt_eq_fieldint, rowExp_eq_expOf]
  cases (c.row n).mode with
  | none => rfl
  | mul => exact ⟨_, rfl, fun x hx => by rw [shiftInt_of_scaled hx, Option.getD_some]⟩
  | div => exact ⟨_, rfl, FVal.val_toWord _ _⟩

/-! ## Which rows break the contract (R162) -/

theorem rowViolation_eq_none_iff {r : FdRow} : rowViolation c r = none ↔ ¬ Spec.rowViolates c r := by
  unfold rowViolation Spec.rowViolates
  cases r.lo with
  | none => exact addressViolation_eq_none_iff
  | some lo => exact dualViolation_eq_none_iff.trans (by simp only [not_or])

theorem not_rowViolates_of_rowWellMade {r : FdRow} (h : c.rowWellMade r = true) : ¬ Spec.rowViolates c r := by
  unfold Config.rowWellMade at h
  unfold Spec.rowViolates
  cases hlo : r.lo with
  | none =>
    simp only [hlo, Bool.and_true, Bool.and_eq_true] at h
    exact (Config.inImage_iff c _).1 h.2
  | some lo =>
    simp only [hlo, Bool.and_eq_true, decide_eq_true_iff] at h
    obtain ⟨⟨-, hhi⟩, ⟨-, hin⟩, hwidth⟩ := h
    rw [Config.inImage_iff] at hhi hin
    exact not_or.2 ⟨not_lt.2 hwidth, not_or.2 ⟨hhi, hin⟩⟩

/-- The exponent's row of a row read by fieldval counts where the mode uses it (log 18). -/
theorem valueViolation_eq_none_iff {n : RowName} :
    valueViolation c n = none ↔ ¬ Spec.rowViolates c (c.row n)
      ∧ ((c.row n).mode ≠ .none → ∀ m bias, (c.row n).exp = .ofRow m bias → ¬ Spec.rowViolates c (c.row m)) := by
  have hexp : (c.row n).expRow.bind (fieldViolation c) = none
      ↔ ∀ m bias, (c.row n).exp = .ofRow m bias → ¬ Spec.rowViolates c (c.row m) := by
    unfold FdRow.expRow
    cases (c.row n).exp with
    | const e => simp
    | ofRow m bias => simp [fieldViolation, rowViolation_eq_none_iff]
  unfold valueViolation
  rw [Option.or_eq_none_iff, fieldViolation, rowViolation_eq_none_iff, ← hexp]
  cases (c.row n).mode <;> simp

/-! ## Which rows CALX evaluates (R164 to R170) -/

theorem mem_valueRows_iff {n : RowName} : n ∈ valueRows ↔ Spec.readByFieldval n := by
  cases n with
  | ct k =>
    simp [Spec.readByFieldval, valueRows, scalarRows]
    omega
  | _ => simp [Spec.readByFieldval, valueRows, scalarRows]

theorem mem_fieldRows_iff {n : RowName} : n ∈ fieldRows ↔ Spec.readByFieldint n := by
  cases n with
  | offPix sub p => cases sub <;> simp [Spec.readByFieldint, fieldRows, Config.npix]
  | _ => simp [Spec.readByFieldint, fieldRows, Config.npix]

theorem tableViolation_eq_none_iff : tableViolation c = none ↔ ∀ n, ¬ Spec.rowFails c n := by
  simp only [tableViolation_eq_none, mem_valueRows_iff, mem_fieldRows_iff, valueViolation_eq_none_iff, fieldViolation,
    rowViolation_eq_none_iff]
  constructor
  · rintro ⟨hvalue, hfield⟩ n (⟨hn | hn, hfails⟩ | ⟨hn, hmode, m, bias, hexp, hfails⟩)
    · exact (hvalue n hn).1 hfails
    · exact hfield n hn hfails
    · exact (hvalue n hn).2 hmode m bias hexp hfails
  · intro h
    exact ⟨fun n hn => ⟨fun hfails => h n (.inl ⟨.inl hn, hfails⟩),
        fun hmode m bias hexp hfails => h n (.inr ⟨hn, hmode, m, bias, hexp, hfails⟩)⟩,
      fun n hn hfails => h n (.inl ⟨.inr hn, hfails⟩)⟩

theorem tableViolation_of_wellMade (h : c.fdmapWellMade = true) : tableViolation c = none := by
  have hrow : ∀ n ∈ tableRows, ¬ Spec.rowViolates c (c.row n)
      ∧ ∀ m bias, (c.row n).exp = .ofRow m bias → ¬ Spec.rowViolates c (c.row m) := fun n hn => by
    obtain ⟨hown, hexp⟩ := Bool.and_eq_true_iff.1 (List.all_eq_true.1 h n hn)
    refine ⟨not_rowViolates_of_rowWellMade hown, fun m bias hm => not_rowViolates_of_rowWellMade ?_⟩
    simpa only [FdRow.expRow, hm] using hexp
  rw [tableViolation_eq_none]
  refine ⟨fun n hn => ?_, fun n hn => ?_⟩
  · obtain ⟨hown, hexp⟩ := hrow n (List.mem_append_left _ (List.mem_append_left _ hn))
    exact valueViolation_eq_none_iff.2 ⟨hown, fun _ => hexp⟩
  · exact rowViolation_eq_none_iff.2 (hrow n (List.mem_append_left _ (List.mem_append_right _ hn))).1

/-! ## The broken pixels (R176, R177) -/

theorem mem_brokenList {p : ℕ} : p ∈ brokenList c ee ↔ p < 192 ∧ Spec.isBroken c ee p := by
  unfold brokenList Spec.isBroken
  simp [broken, rawField_eq_raw, Config.npix, and_assoc]

/-- There is one list of the broken pixels in increasing order, the model's. -/
theorem listsBroken_iff {L : List ℕ} : Spec.listsBroken c ee L ↔ L = brokenList c ee := by
  constructor
  · rintro ⟨hsorted, hmem⟩
    exact hsorted.eq_of_mem_iff (brokenList_pairwise c ee) fun p => (hmem p).trans mem_brokenList.symm
  · rintro rfl
    exact ⟨brokenList_pairwise c ee, fun p => mem_brokenList⟩

theorem two_lt_length_brokenList {p q r : ℕ} (hpq : p < q) (hqr : q < r) (hr : r < 192) (hp : Spec.isBroken c ee p)
    (hq : Spec.isBroken c ee q) (hr' : Spec.isBroken c ee r) : 2 < (brokenList c ee).length := by
  have hnodup : [p, q, r].Nodup := by simp; omega
  have hsub : [p, q, r] ⊆ brokenList c ee := by
    simp only [List.cons_subset, mem_brokenList, List.nil_subset, and_true]
    exact ⟨⟨by omega, hp⟩, ⟨by omega, hq⟩, hr, hr'⟩
  exact (List.subperm_of_subset hnodup hsub).length_le

theorem brokenEntry_eq_getD (c : Config) (ee : Memory Word) (k : ℕ) :
    brokenEntry c ee k = (((brokenList c ee).getD k 0xFFFF : ℕ) : ℤ) := by
  unfold brokenEntry
  rw [List.getD_eq_getElem?_getD]
  cases (brokenList c ee)[k]? <;> rfl

/-! ## What CALX raises (R160, R163, R177) -/

theorem calxFailure_of_not_devSelected (h : devSelected c ee = false) : calxFailure c ee = some .unusable := by
  rw [calxFailure, h]
  rfl

theorem calxFailure_of_devSelected (h : devSelected c ee = true) :
    calxFailure c ee = (tableViolation c).or (if 2 < (brokenList c ee).length then some .unusable else none) := by
  rw [calxFailure, h]
  rfl

/-- With the device-select check passed and no violation of the table, only a third broken pixel makes CALX fail. -/
theorem calxFailure_of_no_violation (hdev : devSelected c ee = true) (htable : tableViolation c = none) :
    calxFailure c ee = if 2 < (brokenList c ee).length then some .unusable else none := by
  rw [calxFailure_of_devSelected hdev, htable, Option.none_or]

theorem exec_calx_of_accepted {s : State} (h : Spec.calxAccepted s) : exec .calx s = .next s.extract := by
  obtain ⟨hf, himage, hcal⟩ := h
  refine exec_eq_perform hf rfl (show s.mayExtract = true from ?_)
  obtain himage | himage := himage <;> simp [State.mayExtract, himage, hcal]

theorem exec_calx_of_unusable {s : State} (h : Spec.calxAccepted s) (hx : calxFailure s.cfg s.ee = some .unusable) :
    exec .calx s = .next { s with status := .unusable, fs := .idle } := by
  simp only [exec_calx_of_accepted h, State.extract, hx, State.raise, Status.contract, Bool.or_false]

/-- Raising a contract violation sets FAULT (R284, R286). -/
theorem State.raise_eq_violated (s : State) {x : Status} (hx : x.contract = true) : s.raise x = Spec.violated s x := by
  rw [State.raise, hx, Bool.or_true]
  rfl

/-- A CALX that ends OK has met no failure and has committed CAL. -/
theorem commitCal_of_exec_calx {s t : State} (h : exec .calx s = .next t) (hok : t.status = .ok) :
    calxFailure s.cfg s.ee = none ∧ t = s.commitCal := by
  obtain ⟨-, rfl⟩ | ⟨-, x, rfl | rfl, rfl⟩ | ⟨-, -, -, rfl⟩ := exec_cases h
  · nomatch hok
  · nomatch hok
  · nomatch hok
  · obtain ⟨x, hx, he⟩ | ⟨hx, he⟩ := s.extract_cases
    · have hraised : (s.raise x).status = .ok := he ▸ hok
      exact absurd hraised (calxFailure_ne_ok hx)
    · exact ⟨hx, he⟩

/-! ## What a committed CAL reads as (R165 to R170) -/

section

variable {p : ℕ} (d : ℕ)

theorem read_ksTo_extractAll {k : ℕ} (hk : k < 8) :
    (extractAll c ee d).ksTo.read k = fieldVal c ee (d + 15 + k) (.ksTo k) :=
  (Memory.read_ofFn _ _ k).trans (if_pos hk)

/-- ct[0..4] are CT_FIXED, ct[5..7] are their rows' values. -/
theorem read_ct_extractAll (c : Config) (ee : Memory Word) (d k : ℕ) :
    (extractAll c ee d).ct.read k = [.int (-40), .int (-20), .int 0, .int 80, .int 120, fieldVal c ee (d + 28) (.ct 5),
      fieldVal c ee (d + 29) (.ct 6), fieldVal c ee (d + 30) (.ct 7)].getD k (Memory.unlisted CalVal) :=
  Memory.read_ofList _ k

/-- A table of F values reads back as it was computed. -/
theorem val_read_ofFn_toWord {n p : ℕ} (f : ℕ → FVal) (free : ℕ → F32) (hp : p < n) :
    ((Memory.ofFn n fun q => (f q).toWord (free q)).read p).val = f p := by
  rw [Memory.read_ofFn, if_pos hp, FVal.val_toWord]

theorem val_read_alpha_extractAll (hp : p < 192) : ((extractAll c ee d).alpha.read p).val = pixelAlpha c ee p :=
  val_read_ofFn_toWord (pixelAlpha c ee) _ hp

theorem val_read_kta_extractAll (hp : p < 192) : ((extractAll c ee d).kta.read p).val = pixelKta c ee p :=
  val_read_ofFn_toWord (pixelKta c ee) _ hp

theorem val_read_kv_extractAll (hp : p < 192) : ((extractAll c ee d).kv.read p).val = pixelKv c ee p :=
  val_read_ofFn_toWord (pixelKv c ee) _ hp

theorem read_offset0_extractAll (hp : p < 192) :
    (extractAll c ee d).offset0.read p = pixelOffset c ee (d + 608 + p) false p :=
  (Memory.read_ofFn _ _ p).trans (if_pos hp)

theorem read_offset1_extractAll (hp : p < 192) :
    (extractAll c ee d).offset1.read p = pixelOffset c ee (d + 800 + p) true p :=
  (Memory.read_ofFn _ _ p).trans (if_pos hp)

end

theorem driftValue_of_scaled {delta scale2 x : ℤ} (h : Spec.scaled delta scale2 x) (n : Numerics) (avg scale1 : ℤ) :
    driftValue n delta scale2 avg scale1 = (i2f n (x + avg)).div n (pow2 n scale1) := by
  rw [driftValue, shiftInt_of_scaled h]

theorem pixelOffset_of_scaled {sub : Bool} {p : ℕ} {x : ℤ}
    (h : Spec.scaled (fieldInt c ee (.offPix sub p)) (fieldInt c ee .offScale) x) (draw : ℕ) :
    pixelOffset c ee draw sub p = x + fieldInt c ee .offRef := by
  rw [pixelOffset, shiftInt_of_scaled h]

end Sys2Proof.Machine

namespace Sys2Proof

open Machine

/-! ## The statements -/

/-- Settles O23: nothing fails, so CAL is committed, and each of its fields is its row's fieldval. -/
theorem calxCommitsCalibration : Obligations.CalxCommitsCalibration := by
  intro s L haccepted hdev hmade hL hlen
  obtain rfl := listsBroken_iff.1 hL
  have hnone : calxFailure s.cfg s.ee = none := by
    rw [calxFailure_of_no_violation hdev (tableViolation_of_wellMade hmade), if_neg (not_lt.2 hlen)]
  have hcommit : exec .calx s = .next s.commitCal := by
    rw [exec_calx_of_accepted haccepted, State.extract, hnone]
  have hfield := fieldIs_fieldVal s.cfg s.ee
  refine ⟨extractAll s.cfg s.ee s.draws, s.draws + calxDraws, hcommit, hfield _ _, hfield _ _, hfield _ _, hfield _ _,
    hfield _ _, hfield _ _, hfield _ _, hfield _ _, hfield _ _, hfield _ _, hfield _ _, hfield _ _, hfield _ _,
    hfield _ _, hfield _ _, fun k hk => ?_, ?_, ?_, ?_, ?_, ?_, fun k h5 h7 => ?_⟩
  · rw [read_ksTo_extractAll _ hk]
    exact hfield _ _
  case refine_7 =>
    rw [read_ct_extractAll]
    interval_cases k <;> exact hfield _ _
  all_goals exact read_ct_extractAll _ _ _ _

/-- Settles O24: each table of the committed CAL read at p is the model's formula for p, with fieldint R161's. -/
theorem calxFillsPixelTables : Obligations.CalxFillsPixelTables := by
  rintro s t _ _ rfl rfl h hok p hp
  obtain ⟨-, rfl⟩ := commitCal_of_exec_calx h hok
  simp only [← fieldInt_eq_fieldint, State.commitCal_cal]
  refine ⟨val_read_alpha_extractAll _ hp, fun x hx => ?_, fun x hx => ?_, fun x hx => ?_, fun x hx => ?_⟩
  · rw [val_read_kta_extractAll _ hp]
    exact driftValue_of_scaled hx _ _ _
  · rw [val_read_kv_extractAll _ hp]
    exact driftValue_of_scaled hx _ _ _
  · rw [read_offset0_extractAll _ hp]
    exact pixelOffset_of_scaled hx _
  · rw [read_offset1_extractAll _ hp]
    exact pixelOffset_of_scaled hx _

/-- Settles O25: a list of the broken pixels is the model's, of which CALX commits the first two entries. -/
theorem calxRecordsBrokenPixels : Obligations.CalxRecordsBrokenPixels := by
  intro s t L h hok hL
  obtain rfl := listsBroken_iff.1 hL
  obtain ⟨hnone, rfl⟩ := commitCal_of_exec_calx h hok
  have hlen := length_brokenList_of_calxFailure hnone
  obtain ⟨-, -, hsentinel, hsorted⟩ := brokenPixelsOk_extractAll s.draws hlen
  exact ⟨hlen, brokenEntry_eq_getD _ _ 0, brokenEntry_eq_getD _ _ 1, hsentinel, hsorted⟩

/-- Settles O26: both causes make Unusable what CALX raises. -/
theorem calxUnusableImage : Obligations.CalxUnusableImage := by
  intro s haccepted
  refine ⟨fun hdev => exec_calx_of_unusable haccepted (calxFailure_of_not_devSelected hdev),
    fun hdev hmade p q r hpq hqr hr hp hq hr' => exec_calx_of_unusable haccepted ?_⟩
  rw [calxFailure_of_no_violation hdev (tableViolation_of_wellMade hmade),
    if_pos (two_lt_length_brokenList hpq hqr hr hp hq hr')]

/-- Settles O27: a row that fails gives the table a violation, a contract violation, which CALX raises before it looks at the
broken pixels; without one it ends OK or Unusable. -/
theorem calxViolationsAreTheTables : Obligations.CalxViolationsAreTheTables := by
  intro s haccepted hdev
  rw [exec_calx_of_accepted haccepted]
  refine ⟨fun ⟨n, hn⟩ => ?_, fun hclean t ht => ?_⟩
  · obtain ⟨x, hx⟩ := Option.ne_none_iff_exists'.1 fun htable => tableViolation_eq_none_iff.1 htable n hn
    have hcontract := tableViolation_contract hx
    have hviolated : s.extract = Spec.violated s x := by
      rw [State.extract, calxFailure_of_devSelected hdev, hx, Option.some_or]
      exact s.raise_eq_violated hcontract
    rw [hviolated]
    obtain rfl | rfl := Status.contract_iff.1 hcontract
    · exact .inl rfl
    · exact .inr rfl
  · injection ht with ht
    subst ht
    rw [State.extract, calxFailure_of_no_violation hdev (tableViolation_eq_none_iff.2 hclean)]
    split_ifs
    · exact .inr rfl
    · exact .inl rfl

end Sys2Proof
end

section
/-! The frame reader (O28 to O32). R204's summary is written with `>>=` (`Spec.polls_succ` and the like), and the
machine is followed through it part by part: `State.EndsIn` says that the machine comes to IDLE in a given state, and
each part is run with whatever follows it. Where the transport's answers are known the summary is then evaluated instead
of the machine. -/

namespace Sys2Proof

variable {α : Type} [Inhabited α] [DecidableEq α]

/-- Two block writes, the second where the first ends, are one. -/
theorem Memory.writeList_append (m : Memory α) (i : Nat) (vs ws : List α) :
    m.writeList i (vs ++ ws) = (m.writeList i vs).writeList (i + vs.length) ws := by
  induction vs generalizing i m with
  | nil => rfl
  | cons v vs ih =>
    rw [List.cons_append, Memory.writeList, ih, Memory.writeList, List.length_cons, Nat.add_assoc, Nat.add_comm 1]

end Sys2Proof

namespace Sys2Proof.Machine

/-! ## A status word -/

theorem readyBit_iff {c : Config} {w : Word} : readyBit c w = true ↔ w &&& c.rdyMask ≠ 0 := by
  simp [readyBit]

theorem readyBit_eq_false_iff {c : Config} {w : Word} : readyBit c w = false ↔ w &&& c.rdyMask = 0 := by
  simp [readyBit]

theorem parityBit_eq_parityOf (c : Config) (w : Word) : parityBit c w = Spec.parityOf c w := by
  rw [Bool.eq_iff_iff]
  simp [parityBit, Spec.parityOf]

/-- The poll that found data-ready set (R196). -/
def State.pollFound (s : State) (w : Word) : State := { s with stw := w, subp := parityBit s.cfg w }

/-- A poll that found it clear (R196). -/
def State.pollMissed (s : State) (w : Word) : State := { s with stw := w, np := s.np + 1 }

/-- A pass that has read its last status word (R200). -/
def State.passDone (s : State) (w : Word) : State :=
  { s with stw := w, subp := parityBit s.cfg w, att := s.att + 1 }

@[simp] theorem State.passDone_cfg (s : State) (w : Word) : (s.passDone w).cfg = s.cfg := rfl
@[simp] theorem State.passDone_stw (s : State) (w : Word) : (s.passDone w).stw = w := rfl

end Sys2Proof.Machine

namespace Sys2Proof

open Machine

/-! ## The summary as a composition of its parts (R204) -/

/-- The state a part of the summary ends in, failed or not. -/
def Spec.outcome : Except State State → State
  | .error t => t
  | .ok t => t

theorem Spec.polls_succ (n : Nat) (s : State) :
    Spec.polls (n + 1) s = Spec.request s (.read s.cfg.sa s.cfg.regStatus 1) 1 >>= fun p =>
      if readyBit p.2.cfg (firstWord p.1) then .ok (p.2.pollFound (firstWord p.1))
      else Spec.polls n (p.2.pollMissed (firstWord p.1)) := by
  simp only [readyBit_iff, State.pollFound, parityBit_eq_parityOf]
  rw [Spec.polls]
  cases Spec.request s (.read s.cfg.sa s.cfg.regStatus 1) 1 <;> rfl

theorem Spec.windows_succ (n : Nat) (s : State) :
    Spec.windows (n + 1) s = Spec.request s (.read s.cfg.sa (s.cfg.winAddr s.subp s.win) 32) 32 >>= fun p =>
      Spec.windows n { p.2 with fb := p.2.fb.writeList (32 * p.2.win) p.1, win := p.2.win + 1 } := by
  rw [Spec.windows]
  cases Spec.request s (.read s.cfg.sa (s.cfg.winAddr s.subp s.win) 32) 32 <;> rfl

/-- The status read that ends a pass. -/
def Spec.repoll (s : State) : Except State State :=
  Spec.request s (.read s.cfg.sa s.cfg.regStatus 1) 1 >>= fun p =>
    .ok (p.2.passDone (firstWord p.1))

theorem Spec.passEnd_eq (s : State) :
    Spec.passEnd s = Spec.request s (.read s.cfg.sa s.cfg.tailAddr 48) 48 >>= fun p =>
      Spec.repoll { p.2 with fb := p.2.fb.writeList 192 p.1 } := by
  simp only [Spec.repoll, State.passDone, parityBit_eq_parityOf]
  rw [Spec.passEnd]
  cases Spec.request s (.read s.cfg.sa s.cfg.tailAddr 48) 48 with
  | error t => rfl
  | ok p =>
    dsimp only [bind, Except.bind]
    cases Spec.request { p.2 with fb := p.2.fb.writeList 192 p.1 } (.read p.2.cfg.sa p.2.cfg.regStatus 1) 1 <;> rfl

theorem Spec.pass_eq (s : State) :
    Spec.pass s = Spec.request s (.write s.cfg.sa s.cfg.regClear s.cfg.valClear) 0 >>= fun p =>
      Spec.windows 6 { p.2 with win := 0 } >>= Spec.passEnd := by
  rw [Spec.pass]
  cases Spec.request s (.write s.cfg.sa s.cfg.regClear s.cfg.valClear) 0 with
  | error t => rfl
  | ok p =>
    dsimp only [bind, Except.bind]
    cases Spec.windows 6 { p.2 with win := 0 } <;> rfl

theorem Spec.passes_succ (n : Nat) (s : State) :
    Spec.passes (n + 1) s = Spec.pass s >>= fun t =>
      if readyBit t.cfg t.stw then Spec.passes n t else .ok t := by
  simp only [readyBit_iff, ite_not]
  rw [Spec.passes]
  cases Spec.pass s <;> rfl

theorem Spec.trailer_eq (s : State) :
    Spec.trailer s = Spec.request s (.read s.cfg.sa s.cfg.regCtrl 1) 1 >>= fun p =>
      .ok (p.2.ctrlRead (firstWord p.1)) := by
  rw [Spec.trailer]
  cases Spec.request s (.read s.cfg.sa s.cfg.regCtrl 1) 1 <;> rfl

theorem Spec.acquisition_eq (s : State) :
    Spec.acquisition s = Spec.outcome (Spec.polls 5 { s with fbValid := false, np := 0, att := 0, win := 0 } >>=
      fun t => Spec.passes 5 t >>= Spec.trailer) := by
  rw [Spec.acquisition]
  cases Spec.polls 5 { s with fbValid := false, np := 0, att := 0, win := 0 } with
  | error t => rfl
  | ok t =>
    dsimp only [bind, Except.bind]
    cases Spec.passes 5 t with
    | error u => rfl
    | ok u =>
      dsimp only
      cases Spec.trailer u <;> rfl

theorem Spec.bind_of_ok {α β : Type} {x : Except State α} {a : α} (h : x = .ok a) (f : α → Except State β) :
    x >>= f = f a := by
  rw [h]
  rfl

end Sys2Proof

namespace Sys2Proof.Machine

/-! ## The machine as it comes to IDLE -/

/-- The machine, run from s, comes to IDLE in the state t. -/
def State.EndsIn (s t : State) : Prop := t.fs = .idle ∧ ∃ k, State.frRun k s = t

theorem State.EndsIn.of_idle {s : State} (h : s.fs = .idle) : s.EndsIn s := ⟨h, 0, rfl⟩

theorem State.EndsIn.of_frStep {s t : State} (hi : s.fs ≠ .idle) (h : s.frStep.EndsIn t) : s.EndsIn t := by
  obtain ⟨ht, k, hk⟩ := h
  exact ⟨ht, k + 1, by rw [State.frRun_succ hi, hk]⟩

theorem State.frRun_add (k m : Nat) (s : State) : State.frRun (k + m) s = State.frRun m (State.frRun k s) := by
  induction k generalizing s with
  | zero => rw [Nat.zero_add]; rfl
  | succ k ih =>
    by_cases hi : s.fs = .idle
    · simp only [State.frRun_idle hi]
    · rw [Nat.add_right_comm, State.frRun_succ hi, State.frRun_succ hi, ih]

/-- The machine has one end only. -/
theorem State.EndsIn.frRun_eq {s t : State} (h : s.EndsIn t) {m : Nat} (hm : (State.frRun m s).fs = .idle) :
    State.frRun m s = t := by
  obtain ⟨ht, k, rfl⟩ := h
  calc State.frRun m s = State.frRun k (State.frRun m s) := (State.frRun_idle hm k).symm
    _ = State.frRun m (State.frRun k s) := by rw [← State.frRun_add, ← State.frRun_add, Nat.add_comm]
    _ = State.frRun k s := State.frRun_idle ht m

theorem State.EndsIn.acquire_eq {s t : State} (h : s.frStart.EndsIn t) : s.acquire = t :=
  h.frRun_eq s.acquire_ends.2

/-! ## The machine follows the summary (R204)

The summary leaves FS alone, so that the machine's state is the summary's state s but for FS. -/

/-- The state of the machine where the summary is in s. -/
def State.inPhase (s : State) (f : FrState) : State := { s with fs := f }

@[simp] theorem State.inPhase_fs (s : State) (f : FrState) : (s.inPhase f).fs = f := rfl
@[simp] theorem State.inPhase_win (s : State) (f : FrState) : (s.inPhase f).win = s.win := rfl

section
variable {s : State} {ws : List Word}

theorem State.frStep_pollStatus (h : (s.inPhase .pollStatus).wordsAnswered 1 = some ws) :
    (s.inPhase .pollStatus).frStep =
      ((s.asked (.read s.cfg.sa s.cfg.regStatus 1)).inPhase .pollStatus).polled (firstWord ws) := by
  simp only [State.frStep, State.inPhase_fs, State.busRead, h]
  rfl

theorem State.frStep_clearFlag (h : (s.inPhase .clearFlag).wordsAnswered 0 = some ws) :
    (s.inPhase .clearFlag).frStep =
      { s.asked (.write s.cfg.sa s.cfg.regClear s.cfg.valClear) with win := 0 }.inPhase .readWindows := by
  simp only [State.frStep, State.inPhase_fs, State.busWrite, h, Option.isSome_some]
  rfl

theorem State.frStep_window (hw : s.win < 6) (h : (s.inPhase .readWindows).wordsAnswered 32 = some ws) :
    (s.inPhase .readWindows).frStep =
      ((s.asked (.read s.cfg.sa (s.cfg.winAddr s.subp s.win) 32)).windowRead ws).inPhase .readWindows := by
  simp only [State.frStep, State.inPhase_fs, State.inPhase_win, Config.nWin, Config.winWords, if_pos hw,
    State.busRead, h]
  rfl

theorem State.frStep_tail (hw : s.win = 6) (h : (s.inPhase .readWindows).wordsAnswered 48 = some ws) :
    (s.inPhase .readWindows).frStep =
      ((s.asked (.read s.cfg.sa s.cfg.tailAddr 48)).tailRead ws).inPhase .repoll := by
  simp only [State.frStep, State.inPhase_fs, State.inPhase_win, Config.nWin, Config.tailWords, hw,
    Nat.lt_irrefl, if_false, State.busRead, h]
  rfl

theorem State.frStep_repoll (h : (s.inPhase .repoll).wordsAnswered 1 = some ws) :
    (s.inPhase .repoll).frStep =
      ((s.asked (.read s.cfg.sa s.cfg.regStatus 1)).inPhase .repoll).repolled (firstWord ws) := by
  simp only [State.frStep, State.inPhase_fs, State.busRead, h]
  rfl

theorem State.frStep_readCtrl (h : (s.inPhase .readCtrl).wordsAnswered 1 = some ws) :
    (s.inPhase .readCtrl).frStep = (s.asked (.read s.cfg.sa s.cfg.regCtrl 1)).ctrlRead (firstWord ws) := by
  simp only [State.frStep, State.inPhase_fs, State.busRead, h]
  rfl

end

/-- `State.polled_cases` in the words of the summary. -/
theorem State.polled_inPhase (s : State) (f : FrState) (w : Word) :
    (readyBit s.cfg w = true ∧ (s.inPhase f).polled w = (s.pollFound w).inPhase .clearFlag)
    ∨ (readyBit s.cfg w = false ∧ s.np + 1 = 5
      ∧ (s.inPhase f).polled w = ((s.pollMissed w).inPhase f).raise .frameTimeout)
    ∨ (readyBit s.cfg w = false ∧ s.np + 1 ≠ 5 ∧ (s.inPhase f).polled w = (s.pollMissed w).inPhase f) :=
  (s.inPhase f).polled_cases w

/-- `State.repolled_cases` in the words of the summary. -/
theorem State.repolled_inPhase (s : State) (f : FrState) (w : Word) :
    (readyBit s.cfg w = false ∧ (s.inPhase f).repolled w = (s.passDone w).inPhase .readCtrl)
    ∨ (readyBit s.cfg w = true ∧ s.att + 1 < 5 ∧ (s.inPhase f).repolled w = (s.passDone w).inPhase .clearFlag)
    ∨ (readyBit s.cfg w = true ∧ 5 ≤ s.att + 1
      ∧ (s.inPhase f).repolled w = ((s.passDone w).inPhase f).raise .frameTimeout) :=
  (s.inPhase f).repolled_cases w

section
variable {s : State}

/-- The end with FrameTimeout is the summary's. -/
theorem State.EndsIn.timedOut {f : FrState} : ((s.inPhase f).raise .frameTimeout).EndsIn (Spec.timedOut s) := by
  have hraised : (s.inPhase f).raise .frameTimeout = Spec.timedOut s := by
    simp [State.inPhase, State.raise, Spec.timedOut, Status.contract]
  rw [hraised]
  exact .of_idle rfl

/-- A request of the machine is one of the summary's: both end at err, and else go on with the words. -/
theorem State.EndsIn.request {f : FrState} {n : Nat} {q : BusReq} {k : List Word × State → Except State State}
    (hf : f ≠ .idle) (hq : (s.inPhase f).frRequest = q)
    (hok : ∀ ws, (s.inPhase f).wordsAnswered n = some ws →
      (s.inPhase f).frStep.EndsIn (Spec.outcome (k (ws, s.asked q)))) :
    (s.inPhase f).EndsIn (Spec.outcome (Spec.request s q n >>= k)) := by
  refine .of_frStep hf ?_
  rw [Spec.request]
  cases h : s.wordsAnswered n with
  | some ws => exact hok ws h
  | none =>
    have herr : (s.inPhase f).nextAnswer = .err := State.wordsAnswered_eq_none_iff.1 h
    have hfailed : ((s.inPhase f).asked q).busFailed = { s.asked q with status := .transportError, fs := .idle } := by
      simp [State.inPhase, State.busFailed, State.raise, State.asked, Status.contract]
    rw [State.frStep_of_err hf herr, hq, hfailed]
    exact .of_idle rfl

/-- The control read and the trailer, from READ_CTRL on. -/
theorem State.EndsIn.trailer : (s.inPhase .readCtrl).EndsIn (Spec.outcome (Spec.trailer s)) := by
  rw [Spec.trailer_eq]
  refine .request nofun rfl fun ws h => ?_
  rw [State.frStep_readCtrl h]
  exact .of_idle rfl

variable {k : State → Except State State}

/-- The polls left, from POLL_STATUS on, and what follows them. -/
theorem State.EndsIn.polls {n : Nat} (hpos : 0 < n) (hn : n + s.np = 5)
    (hk : ∀ u : State, u.att = s.att → (u.inPhase .clearFlag).EndsIn (Spec.outcome (k u))) :
    (s.inPhase .pollStatus).EndsIn (Spec.outcome (Spec.polls n s >>= k)) := by
  induction n generalizing s with
  | zero => exact absurd hpos (Nat.lt_irrefl 0)
  | succ n ih =>
    rw [Spec.polls_succ, bind_assoc]
    refine .request nofun rfl fun ws h => ?_
    rw [State.frStep_pollStatus h]
    obtain ⟨hw, h⟩ | ⟨hw, hlast, h⟩ | ⟨hw, hmore, h⟩ :=
      (s.asked (.read s.cfg.sa s.cfg.regStatus 1)).polled_inPhase .pollStatus (firstWord ws) <;> rw [h]
    · rw [if_pos hw]
      exact hk _ rfl
    · obtain rfl : n = 0 := by rw [State.asked_np] at hlast; omega
      rw [if_neg (ne_true_of_eq_false hw)]
      exact .timedOut
    · rw [State.asked_np] at hmore
      rw [if_neg (ne_true_of_eq_false hw)]
      exact ih (by omega) (show n + (s.np + 1) = 5 by omega) hk

/-- The windows left, the tail and the status read, from READ_WINDOWS on, and what follows them. -/
theorem State.EndsIn.windows {n : Nat} (hn : n + s.win = 6)
    (hk : ∀ (u : State) (w : Word), u.att = s.att →
      ((u.inPhase .repoll).repolled w).EndsIn (Spec.outcome (k (u.passDone w)))) :
    (s.inPhase .readWindows).EndsIn
      (Spec.outcome (Spec.windows n s >>= fun u => Spec.passEnd u >>= k)) := by
  induction n generalizing s with
  | zero =>
    have hwin : s.win = 6 := by rw [← hn, Nat.zero_add]
    show State.EndsIn _ (Spec.outcome (Spec.passEnd s >>= k))
    rw [Spec.passEnd_eq, bind_assoc]
    refine .request nofun (if_neg (show ¬ s.win < 6 by omega)) fun ws h => ?_
    rw [State.frStep_tail hwin h, Spec.repoll, bind_assoc]
    refine .request (s := { s.asked _ with fb := _ }) nofun rfl fun ws' h' => ?_
    rw [State.frStep_repoll h']
    exact hk (State.asked _ _) _ rfl
  | succ n ih =>
    have hwin : s.win < 6 := by omega
    rw [Spec.windows_succ, bind_assoc]
    refine .request nofun (if_pos hwin) fun ws h => ?_
    rw [State.frStep_window hwin h]
    exact ih (s := { s.asked _ with fb := _, win := _ }) (by simp; omega) hk

/-- A pass, from CLEAR_FLAG on, and what follows it. -/
theorem State.EndsIn.pass
    (hk : ∀ (u : State) (w : Word), u.att = s.att →
      ((u.inPhase .repoll).repolled w).EndsIn (Spec.outcome (k (u.passDone w)))) :
    (s.inPhase .clearFlag).EndsIn (Spec.outcome (Spec.pass s >>= k)) := by
  rw [Spec.pass_eq, bind_assoc]
  refine .request nofun rfl fun ws h => ?_
  rw [State.frStep_clearFlag h, bind_assoc]
  exact .windows (s := { s.asked _ with win := 0 }) rfl hk

/-- The passes left, from CLEAR_FLAG on, and what follows them. -/
theorem State.EndsIn.passes {n : Nat} (hpos : 0 < n) (hn : n + s.att = 5)
    (hk : ∀ u : State, (u.inPhase .readCtrl).EndsIn (Spec.outcome (k u))) :
    (s.inPhase .clearFlag).EndsIn (Spec.outcome (Spec.passes n s >>= k)) := by
  induction n generalizing s with
  | zero => exact absurd hpos (Nat.lt_irrefl 0)
  | succ n ih =>
    rw [Spec.passes_succ, bind_assoc]
    refine .pass fun u w hatt => ?_
    obtain ⟨hw, h⟩ | ⟨hw, hmore, h⟩ | ⟨hw, hlast, h⟩ := u.repolled_inPhase .repoll w <;>
      rw [h, State.passDone_cfg, State.passDone_stw]
    · rw [if_neg (ne_true_of_eq_false hw)]
      exact hk _
    · rw [if_pos hw]
      exact ih (by omega) (show n + (u.att + 1) = 5 by omega)
    · obtain rfl : n = 0 := by omega
      rw [if_pos hw]
      exact .timedOut

/-- An acquisition of the machine ends as R204's summary. -/
theorem State.acquire_eq_acquisition (s : State) : s.acquire = Spec.acquisition s := by
  refine State.EndsIn.acquire_eq ?_
  rw [Spec.acquisition_eq]
  refine .polls (s := { s with fbValid := false, np := 0, att := 0, win := 0 }) (Nat.succ_pos 4) rfl fun t hatt => ?_
  exact .passes (Nat.succ_pos 4) (congrArg (5 + ·) hatt) fun u => .trailer

end

/-! ## The end of an acquisition, and the requests it takes (R203, R205) -/

/-- The least number of requests issued by the time the machine is in this state. -/
def State.frFloor (s : State) : Nat :=
  match s.fs with
  | .idle => if s.status = .ok then 11 else 1
  | .pollStatus => 0
  | .clearFlag => 1
  | .readWindows => 2 + s.win
  | .repoll => 9
  | .readCtrl => 10

/-- How an acquisition ends: FB_VALID is set at OK only. -/
def State.Concluded (s : State) : Prop :=
  (s.status = .ok ∧ s.fbValid = true)
    ∨ ((s.status = .frameTimeout ∨ s.status = .transportError) ∧ s.fbValid = false)

/-- One step of the machine, which issues one request, raises the floor by one at most. -/
theorem State.frFloor_frStep {s : State} (hi : s.fs ≠ .idle) : s.frStep.frFloor ≤ s.frFloor + 1 := by
  obtain ⟨h, -⟩ | ⟨-, hs⟩ | ⟨ws, hf, -, hs⟩ | ⟨hf, -, hs⟩ | ⟨ws, hf, hw, -, hs⟩ | ⟨ws, hf, hw, -, hs⟩
    | ⟨ws, hf, -, hs⟩ | ⟨ws, hf, -, hs⟩ := s.frStep_cases
  · exact absurd h hi
  · rw [hs]
    simp [State.frFloor, State.busFailed]
  · rw [hs]
    obtain ⟨-, h⟩ | ⟨-, -, h⟩ | ⟨-, -, h⟩ := (s.asked _).polled_cases (firstWord ws) <;> rw [h] <;>
      simp [State.frFloor, hf]
  · simp [hs, State.frFloor, hf]
  · simp [hs, State.frFloor, hf]
    omega
  · simp [hs, State.frFloor, hf]
    omega
  · rw [hs]
    obtain ⟨-, h⟩ | ⟨-, -, h⟩ | ⟨-, -, h⟩ := (s.asked _).repolled_cases (firstWord ws) <;> rw [h] <;>
      simp [State.frFloor, hf]
  · simp [hs, State.frFloor, hf]

/-- A step that comes to IDLE concludes the acquisition. -/
theorem State.concluded_frStep {s : State} (hi : s.fs ≠ .idle) (hv : s.fbValid = false) (hidle : s.frStep.fs = .idle) :
    s.frStep.Concluded := by
  obtain ⟨h, -⟩ | ⟨-, hs⟩ | ⟨ws, hf, -, hs⟩ | ⟨hf, -, hs⟩ | ⟨ws, hf, -, -, hs⟩ | ⟨ws, hf, -, -, hs⟩
    | ⟨ws, hf, -, hs⟩ | ⟨ws, hf, -, hs⟩ := s.frStep_cases
  · exact absurd h hi
  · rw [hs]
    exact .inr ⟨.inr rfl, hv⟩
  · rw [hs] at hidle ⊢
    obtain ⟨-, h⟩ | ⟨-, -, h⟩ | ⟨-, -, h⟩ := (s.asked _).polled_cases (firstWord ws) <;> rw [h] at hidle ⊢
    · nomatch hidle
    · exact .inr ⟨.inl rfl, hv⟩
    · exact absurd hidle hi
  · exact absurd (hs ▸ hidle) nofun
  · rw [hs] at hidle
    exact absurd hidle hi
  · exact absurd (hs ▸ hidle) nofun
  · rw [hs] at hidle ⊢
    obtain ⟨-, h⟩ | ⟨-, -, h⟩ | ⟨-, -, h⟩ := (s.asked _).repolled_cases (firstWord ws) <;> rw [h] at hidle ⊢
    · nomatch hidle
    · nomatch hidle
    · exact .inr ⟨.inl rfl, hv⟩
  · rw [hs]
    exact .inl ⟨rfl, rfl⟩

/-- What holds in every state of an acquisition that began after so many requests. -/
structure State.Progress (before : Nat) (s : State) : Prop where
  acquiring : s.Acquiring
  floor : before + s.frFloor ≤ s.reqs.length
  concluded : s.fs = .idle → s.Concluded

theorem State.Progress.frStep {before : Nat} {s : State} (hi : s.fs ≠ .idle) (h : s.Progress before) :
    s.frStep.Progress before where
  acquiring := (h.acquiring.frStep hi).1
  floor := by
    have hfloor := h.floor
    have hstep := State.frFloor_frStep hi
    rw [State.frStep_reqs hi, List.length_cons]
    omega
  concluded := State.concluded_frStep hi (h.acquiring.invalid hi)

theorem State.progress_acquire (s : State) : s.acquire.Progress s.reqs.length :=
  State.frRun_induct (fun _ => State.Progress.frStep) _ ⟨s.acquiring_frStart, le_rfl, nofun⟩

/-! ## The summary where the transport's answers are known -/

section
variable {s : State} {more : List BusAnswer}

/-- The state once these requests, newest first, have been answered and the script goes on so. -/
def State.answered (s : State) (qs : List BusReq) (more : List BusAnswer) : State :=
  { s with script := more, reqs := qs ++ s.reqs }

/-- A request that is answered ok with the words it asks for. -/
theorem request_of_ok {q : BusReq} {n : Nat} {ws : List Word} (hs : s.script = .ok ws :: more) (hws : ws.length = n) :
    Spec.request s q n = .ok (ws, s.answered [q] more) := by
  have hanswer : s.wordsAnswered n = some ws := by
    rw [State.wordsAnswered_ok hs hws.ge, List.take_of_length_le hws.le]
  simp only [Spec.request, hanswer, State.asked, hs, List.tail_cons]
  rfl

/-- Polls that all find data-ready clear. -/
theorem polls_of_notReady {L : List Word} (hs : s.script = L.map (fun w => .ok [w]) ++ more)
    (hL : ∀ w ∈ L, readyBit s.cfg w = false) :
    Spec.polls L.length s = .error (Spec.timedOut
      { s.answered (List.replicate L.length (.read s.cfg.sa s.cfg.regStatus 1)) more with
        np := s.np + L.length, stw := L.getLastD s.stw }) := by
  induction L generalizing s with
  | nil =>
    obtain rfl : s.script = more := hs
    rfl
  | cons w L ih =>
    obtain ⟨hw, hL⟩ := List.forall_mem_cons.1 hL
    rw [List.length_cons, Spec.polls_succ, Spec.bind_of_ok (request_of_ok (n := 1) hs rfl)]
    refine (if_neg (ne_true_of_eq_false hw)).trans ?_
    refine Eq.trans (ih rfl hL) ?_
    rw [List.getLastD_cons]
    simp [State.pollMissed, firstWord, State.answered, List.replicate_succ', Nat.add_assoc, Nat.add_comm 1]

/-- A poll that finds data-ready set. -/
theorem polls_of_ready {n : Nat} {w : Word} (hs : s.script = .ok [w] :: more) (hw : readyBit s.cfg w = true) :
    Spec.polls (n + 1) s = .ok ((s.answered [.read s.cfg.sa s.cfg.regStatus 1] more).pollFound w) := by
  rw [Spec.polls_succ, Spec.bind_of_ok (request_of_ok (n := 1) hs rfl)]
  exact if_pos hw

/-- The requests for so many windows from window k on, newest first. -/
def windowRequests (c : Config) (sub : Bool) (k n : Nat) : List BusReq :=
  ((List.range' k n).map fun i => .read c.sa (c.winAddr sub i) 32).reverse

/-- Windows that are all answered lie in FB one behind the other. -/
theorem windows_of_ok {W : List (List Word)} {n : Nat} (hn : W.length = n) (hs : s.script = W.map .ok ++ more)
    (hW : ∀ ws ∈ W, ws.length = 32) :
    Spec.windows n s = .ok { s.answered (windowRequests s.cfg s.subp s.win n) more with
      fb := s.fb.writeList (32 * s.win) W.flatten, win := s.win + n } := by
  induction W generalizing n s with
  | nil =>
    obtain rfl : s.script = more := hs
    subst hn
    rfl
  | cons ws W ih =>
    obtain ⟨hws, hW⟩ := List.forall_mem_cons.1 hW
    subst hn
    rw [List.length_cons, Spec.windows_succ, Spec.bind_of_ok (request_of_ok hs hws)]
    refine Eq.trans (ih rfl rfl hW) ?_
    simp [State.answered, windowRequests, List.range'_succ, Memory.writeList_append, hws, Nat.mul_add, Nat.add_assoc,
      Nat.add_comm 1]

/-- The end of a pass that is answered. -/
theorem passEnd_of_ok {tail : List Word} {w : Word} (hs : s.script = .ok tail :: .ok [w] :: more)
    (htail : tail.length = 48) :
    Spec.passEnd s =
      .ok ({ s.answered [.read s.cfg.sa s.cfg.regStatus 1, .read s.cfg.sa s.cfg.tailAddr 48] more with
        fb := s.fb.writeList 192 tail }.passDone w) := by
  rw [Spec.passEnd_eq, Spec.bind_of_ok (request_of_ok hs htail)]
  exact Spec.bind_of_ok (request_of_ok (n := 1) (ws := [w]) rfl rfl) _

/-- A pass that is answered. -/
theorem pass_of_ok {W : List (List Word)} {tail : List Word} {w : Word}
    (hs : s.script = .ok [] :: W.map .ok ++ .ok tail :: .ok [w] :: more) (hwindows : W.length = 6)
    (hW : ∀ ws ∈ W, ws.length = 32) (htail : tail.length = 48) :
    Spec.pass s =
      .ok ({ s.answered ([BusReq.read s.cfg.sa s.cfg.regStatus 1, .read s.cfg.sa s.cfg.tailAddr 48]
          ++ windowRequests s.cfg s.subp 0 6 ++ [BusReq.write s.cfg.sa s.cfg.regClear s.cfg.valClear]) more with
        fb := (s.fb.writeList 0 W.flatten).writeList 192 tail, win := 6 }.passDone w) := by
  rw [Spec.pass_eq, Spec.bind_of_ok (request_of_ok (n := 0) hs rfl)]
  refine Eq.trans (Spec.bind_of_ok (windows_of_ok hwindows rfl hW) _) ?_
  refine Eq.trans (passEnd_of_ok rfl htail) ?_
  simp [State.answered, State.passDone]

/-- The last pass: its status word finds data-ready clear. -/
theorem passes_of_notReady {n : Nat} {t : State} {w : Word} (h : Spec.pass s = .ok (t.passDone w))
    (hw : readyBit t.cfg w = false) : Spec.passes (n + 1) s = .ok (t.passDone w) := by
  rw [Spec.passes_succ, Spec.bind_of_ok h]
  exact if_neg (ne_true_of_eq_false hw)

/-- The control read that ends an acquisition. -/
theorem trailer_of_ok {w : Word} (hs : s.script = .ok [w] :: more) :
    Spec.trailer s = .ok ((s.answered [.read s.cfg.sa s.cfg.regCtrl 1] more).ctrlRead w) := by
  rw [Spec.trailer_eq, Spec.bind_of_ok (request_of_ok (n := 1) hs rfl)]
  rfl

/-- FB once the windows, the tail and the trailer have been written. -/
def frameWritten (c : Config) (fb : Memory Word) (W : List (List Word)) (tail : List Word) (ctrl : Word) (sub : Bool) :
    Memory Word :=
  ((fb.writeList 0 W.flatten).writeList 192 tail |>.write c.trailerBase ctrl).write (c.trailerBase + 1)
    (if sub then 1 else 0)

theorem read_frameWritten {c : Config} {fb : Memory Word} {W : List (List Word)} {tail : List Word} {ctrl : Word}
    {sub : Bool} (hwf : fb.wf = true) (hwindows : W.flatten.length = 192) (htail : tail.length = 48) (i : Nat) :
    (frameWritten c fb W tail ctrl sub).read i =
      if c.trailerBase + 1 = i then if sub then 1 else 0
      else if c.trailerBase = i then ctrl
      else if 192 ≤ i ∧ i < 240 then tail.getD (i - 192) 0
      else if i < 192 then W.flatten.getD i 0
      else fb.read i := by
  have hwf₁ := Memory.wf_writeList (vs := W.flatten) (i := 0) hwf
  have hwf₂ := Memory.wf_writeList (vs := tail) (i := 192) hwf₁
  rw [frameWritten, Memory.read_write (Memory.wf_write hwf₂), Memory.read_write hwf₂, Memory.read_writeList hwf₁,
    Memory.read_writeList hwf, hwindows, htail]
  simp only [Nat.zero_le, true_and, Nat.zero_add, Nat.reduceAdd, Nat.sub_zero]
  rfl

/-- The summary of one pass. -/
theorem acquisition_of_onePass {st st' ctrl : Word} {W : List (List Word)} {tail : List Word}
    (h : Spec.onePass s st W tail st' ctrl more) :
    Spec.acquisition s = { s with
      fb := frameWritten s.cfg s.fb W tail ctrl (Spec.parityOf s.cfg st')
      fbValid := true, np := 0, att := 1, win := 6, subp := Spec.parityOf s.cfg st', stw := st'
      fs := .idle, status := .ok, script := more
      reqs := Spec.onePassRequests s.cfg (Spec.parityOf s.cfg st) ++ s.reqs } := by
  obtain ⟨hs, hready, hwindows, hW, htail, hnot⟩ := h
  have hpolls : Spec.polls 5 { s with fbValid := false, np := 0, att := 0, win := 0 } = _ :=
    polls_of_ready hs (readyBit_iff.2 hready)
  rw [Spec.acquisition_eq, Spec.bind_of_ok hpolls]
  refine Eq.trans (congrArg Spec.outcome (Spec.bind_of_ok (passes_of_notReady (pass_of_ok rfl hwindows hW htail)
    ?hclear) _)) ?_
  case hclear => exact readyBit_eq_false_iff.2 hnot
  refine Eq.trans (congrArg Spec.outcome (trailer_of_ok rfl)) ?_
  simp [Spec.outcome, State.ctrlRead, State.passDone, State.pollFound, State.answered, frameWritten,
    Spec.onePassRequests, windowRequests, List.range', parityBit_eq_parityOf]

theorem getD_flatten {W : List (List Word)} {n : Nat} (hW : ∀ ws ∈ W, ws.length = n) (k : Nat) {j : Nat} (hj : j < n) :
    W.flatten.getD (n * k + j) 0 = (W.getD k []).getD j 0 := by
  induction W generalizing k with
  | nil => rfl
  | cons ws W ih =>
    obtain ⟨hws, hW⟩ := List.forall_mem_cons.1 hW
    rw [List.flatten_cons]
    cases k with
    | zero => rw [List.getD_append _ _ _ _ (by omega), Nat.mul_zero, Nat.zero_add, List.getD_cons_zero]
    | succ k =>
      rw [List.getD_append_right _ _ _ _ (by rw [hws, Nat.mul_succ]; omega), List.getD_cons_succ, ← ih hW k]
      congr 1
      rw [hws, Nat.mul_succ]
      omega

theorem length_flatten_eq {W : List (List Word)} {n : Nat} (hW : ∀ ws ∈ W, ws.length = n) :
    W.flatten.length = W.length * n := by
  rw [List.length_flatten, List.sum_eq_card_nsmul _ n (by simpa using hW), List.length_map, smul_eq_mul]

theorem holdsFrame_frameWritten {c : Config} {fb : Memory Word} {W : List (List Word)} {tail : List Word} {ctrl : Word}
    {sub : Bool} (hwf : fb.wf = true) (hwindows : W.length = 6) (hW : ∀ ws ∈ W, ws.length = 32)
    (htail : tail.length = 48) :
    Spec.holdsFrame c fb (frameWritten c fb W tail ctrl sub) W tail ctrl sub := by
  have hbase : 240 ≤ c.trailerBase := Nat.le_add_right 240 _
  have hlen : W.flatten.length = 192 := by rw [length_flatten_eq hW, hwindows]
  refine ⟨fun k j hk hj => ?_, fun j hj => ?_, ?_, ?_, fun i hi hne hne' => ?_⟩ <;>
    rw [read_frameWritten hwf hlen htail]
  · rw [if_neg (by omega), if_neg (by omega), if_neg (by omega), if_pos (by omega), getD_flatten hW k hj]
  · rw [if_neg (by omega), if_neg (by omega), if_pos (by omega), Nat.add_sub_cancel_left]
  · rw [if_neg (by omega), if_pos rfl]
  · rw [if_pos rfl]
  · rw [if_neg hne'.symm, if_neg hne.symm, if_neg (by omega), if_neg (by omega)]

end

end Sys2Proof.Machine

namespace Sys2Proof

open Machine

/-- Settles O30: the machine followed through the summary, part by part. -/
theorem frdIsTheSummary : Obligations.FrdIsTheSummary := by
  intro s hf
  rw [exec_eq_perform hf rfl rfl, State.perform, State.acquire_eq_acquisition]

/-- Settles O28: everything the capture can do, the image read back from the words that came. -/
theorem eeldCapturesImage : Obligations.EeldCapturesImage := by
  intro s hf
  refine checked_of_perform hf (iff_of_true rfl trivial) (by simp [State.admits, State.mayLoad]) fun _ h => ?_
  rw [h, State.perform]
  obtain ⟨hnone, hs⟩ | ⟨ws, hsome, hlen, hs⟩ := s.capture_cases <;> rw [hs]
  · rw [Bool.or_false]
    exact ⟨fun _ => rfl, fun ws hws => nomatch hnone.symm.trans hws⟩
  · refine ⟨fun hnone => (nomatch hnone.symm.trans hsome), fun ws' hws' => ?_⟩
    obtain rfl : ws = ws' := Option.some.inj (hsome.symm.trans hws')
    refine ⟨_, rfl, hlen, fun i hi => ?_⟩
    rw [Memory.read_ofList, List.getD_eq_getElem _ _ (hlen ▸ hi), List.getElem?_eq_getElem (hlen ▸ hi)]

/-- Settles O29: the bounds by `State.Acquiring` and `State.issues_acquire`, the rest by `State.Progress` at IDLE. -/
theorem frdAlwaysEnds : Obligations.FrdAlwaysEnds := by
  intro s hf
  obtain ⟨⟨hnp, hatt, hwin, -, -, -⟩, hfloor, hconcluded⟩ := s.progress_acquire
  obtain ⟨qs, hqs, -, hmost⟩ := s.issues_acquire
  have hidle := s.acquire_ends.2
  rw [hqs, List.length_append, Nat.add_comm, Nat.add_le_add_iff_right, State.frFloor, hidle] at hfloor
  refine ⟨s.acquire, qs, exec_eq_perform hf rfl rfl, hqs, ?_⟩
  obtain ⟨hok, hvalid⟩ | ⟨hfailed, hinvalid⟩ := hconcluded hidle
  · have hleast : 11 ≤ qs.length := by simpa [hok] using hfloor
    exact ⟨by omega, hmost, hidle, hnp, hatt, hwin, .inl hok, iff_of_true hvalid hok, fun _ => hleast⟩
  · have hne : s.acquire.status ≠ .ok := by obtain h | h := hfailed <;> rw [h] <;> nofun
    have hleast : 1 ≤ qs.length := by simpa [hne] using hfloor
    exact ⟨hleast, hmost, hidle, hnp, hatt, hwin, .inr hfailed, iff_of_false (by simp [hinvalid]) hne,
      fun hok => absurd hok hne⟩

/-- Settles O31: the summary's first loop runs out. -/
theorem frdStopsAfterFivePolls : Obligations.FrdStopsAfterFivePolls := by
  intro s w1 w2 w3 w4 w5 more hf hs hL
  have hclear : ∀ w ∈ [w1, w2, w3, w4, w5], readyBit s.cfg w = false := fun w hw =>
    readyBit_eq_false_iff.2 (hL w hw)
  have hpolls : Spec.polls 5 { s with fbValid := false, np := 0, att := 0, win := 0 } = _ :=
    polls_of_notReady (L := [w1, w2, w3, w4, w5]) hs hclear
  rw [frdIsTheSummary s hf, Spec.acquisition_eq, hpolls]
  rfl

/-- Settles O32: the summary of one pass, whose windows and tail lie in FB one behind the other. -/
theorem frdStoresFrame : Obligations.FrdStoresFrame := by
  intro s st W tail st' ctrl more hf hwf hpass
  rw [frdIsTheSummary s hf, acquisition_of_onePass hpass]
  exact ⟨_, rfl, holdsFrame_frameWritten hwf hpass.windows hpass.windowWords hpass.tailWords⟩

end Sys2Proof
end

section
/-! The temperature compensator (O34 to O41, O60). The model's frame-wide and per-pixel values are the statements' own
(`frameTa_eq_ta`, `pixelIr_eq_ir` and the like), so that TF after CALCTO reads as `State.temperature`. The
printed sub-formulas read no pixel table but at their own pixel (`withTables`), which makes pixels independent; the
baseline rests on what sums with zeros are in the default NUM. -/

namespace Sys2Proof

/-! ## Zeros of the default NUM (R15; log 24) -/

theorem FVal.Sound.finite {x : F32} (h : FVal.Sound (.num x)) : F32.finite x = true := by
  simpa [FVal.Sound] using h

theorem F32.finite_of_mag_eq_zero {x : F32} (h : F32.mag x = 0) : F32.finite x = true := by
  unfold F32.mag at h
  split at h
  · next hexp => exact decide_eq_true (by omega)
  · simp at h

theorem F32.units_eq_zero_iff {x : F32} : F32.units x = 0 ↔ F32.mag x = 0 := by
  unfold F32.units
  split <;> simp

/-- The exponent of a nonzero value says how many bits its magnitude drops. -/
theorem dropBits_mag {x : F32} (h : F32.mag x ≠ 0) : dropBits (F32.mag x) = F32.expField x - 1 := by
  have hfrac : x.toNat % 2 ^ 23 < 2 ^ 23 := Nat.mod_lt _ (by norm_num)
  unfold dropBits
  unfold F32.mag at h ⊢
  split at h
  · next hexp =>
    have hlog := (Nat.log2_lt h).2 hfrac
    rw [if_pos hexp]
    omega
  · next hexp =>
    have hlog : Nat.log2 ((x.toNat % 2 ^ 23 + 2 ^ 23) * 2 ^ (F32.expField x - 1)) = 23 + (F32.expField x - 1) := by
      rw [Nat.log2_eq_iff h, add_right_comm, pow_add, pow_add _ (23 + 1)]
      exact ⟨Nat.mul_le_mul_right _ (by omega), Nat.mul_lt_mul_of_pos_right (by omega) (by positivity)⟩
    rw [if_neg hexp, hlog]
    omega

theorem roundEven_mul_left (m : ℕ) {d : ℕ} (hd : 0 < d) : roundEven (m * d) d = m := by
  simp [roundEven, hd, hd.ne']

/-- The pattern of a magnitude is the value's own, without the sign. -/
theorem F32.pattern_mag {x : F32} (h : F32.mag x ≠ 0) :
    dropBits (F32.mag x) * 2 ^ 23 + roundEven (F32.mag x) (2 ^ dropBits (F32.mag x)) = x.toNat % 2 ^ 31 := by
  rw [dropBits_mag h]
  unfold F32.mag
  split
  · next hexp =>
    rw [hexp]
    have hround := roundEven_mul_left (x.toNat % 2 ^ 23) one_pos
    simp only [mul_one] at hround
    rw [Nat.zero_sub, pow_zero, hround]
    unfold F32.expField at hexp
    omega
  · next hexp =>
    rw [roundEven_mul_left _ (by positivity)]
    unfold F32.expField at hexp ⊢
    omega

theorem F32.ofNat_pattern (x : F32) : BitVec.ofNat 32 (x.toNat % 2 ^ 31 + signBits (F32.neg x)) = x := by
  apply BitVec.eq_of_toNat_eq
  have hx := x.isLt
  rw [BitVec.toNat_ofNat]
  unfold signBits F32.neg
  simp only [decide_eq_true_eq]
  split <;> omega

/-- A finite value other than zero is its own rounding. -/
theorem F32.ofUnits_units {x : F32} (hx : F32.finite x = true) (h : F32.mag x ≠ 0) :
    F32.ofUnits (F32.units x) = .num x := by
  have hneg : decide (F32.units x < 0) = F32.neg x := by
    unfold F32.units
    cases F32.neg x
    · simp
    · simpa using Nat.pos_of_ne_zero h
  have habs : (F32.units x).natAbs = F32.mag x := by
    unfold F32.units
    split <;> simp
  have hlt : x.toNat % 2 ^ 31 < 0x7F800000 := by
    have hne : F32.expField x ≠ 255 := of_decide_eq_true hx
    unfold F32.expField at hne
    omega
  rw [F32.ofUnits, hneg, habs, F32.ofRatio_eq_ofPattern, Nat.div_one, Nat.one_mul, F32.pattern_mag h, F32.ofPattern,
    if_pos hlt, F32.ofNat_pattern]

/-- A zero, of either sign, added to another value leaves it. -/
theorem F32.add_of_mag_eq_zero {x y : F32} (hx : F32.mag x = 0) (hy : F32.finite y = true) (h : F32.mag y ≠ 0) :
    F32.add x y = .num y := by
  rw [F32.add, F32.units_eq_zero_iff.2 hx, zero_add, if_neg (mt F32.units_eq_zero_iff.1 h), F32.ofUnits_units hy h]

/-- The sum of two zeros is a zero. -/
theorem F32.add_zeros {x y : F32} (hx : F32.mag x = 0) (hy : F32.mag y = 0) :
    ∃ z, F32.add x y = .num z ∧ F32.mag z = 0 := by
  refine ⟨_, if_pos (by rw [F32.units_eq_zero_iff.2 hx, F32.units_eq_zero_iff.2 hy, add_zero]), ?_⟩
  split <;> decide

/-- A zero divided by another value is a zero. -/
theorem F32.div_of_zero {x y : F32} (hx : F32.mag x = 0) (hy : F32.mag y ≠ 0) :
    ∃ z, F32.div x y = .num z ∧ F32.mag z = 0 := by
  have hround : roundEven 0 (F32.mag y * 2 ^ dropBits 0) = 0 := by
    simpa using roundEven_mul_left 0 (Nat.mul_pos (Nat.pos_of_ne_zero hy) (Nat.two_pow_pos (dropBits 0)))
  have hdrop : dropBits 0 = 0 := by decide
  rw [F32.div, if_neg hy, hx, zero_mul, F32.ofRatio_eq_ofPattern, Nat.zero_div, hround, hdrop]
  refine ⟨_, if_pos (by decide), ?_⟩
  cases F32.neg x != F32.neg y <;> decide

/-- The fourth root of a zero is that zero. -/
theorem FVal.root4_of_zero {x : F32} (h : F32.mag x = 0) : (FVal.num x).root4 .binary32 = .num x := by
  have hroot := F32.sqrt_of_mag_eq_zero h
  rw [FVal.root4_num_of_sqrt (F32.finite_of_mag_eq_zero h) hroot, hroot]

/-- 273.15 as binary32. -/
theorem kelvin_binary32 : Spec.kelvin .binary32 = .num 0x43889333 := by decide

/-- A zero less 273.15 does not show its sign. -/
theorem FVal.sub_kelvin_of_zero {x : F32} (h : F32.mag x = 0) :
    (FVal.num x).sub .binary32 (Spec.kelvin .binary32) = .num (0x43889333 ^^^ 0x80000000) := by
  rw [kelvin_binary32, FVal.sub_num (F32.finite_of_mag_eq_zero h) (by decide), F32.sub]
  exact F32.add_of_mag_eq_zero h (by decide) (by rw [F32.mag_xor_sign]; decide)

/-- Without net signal the quartic law is root4(tar) − 273.15, whatever the denominator (R237): only the sign of a zero
under the root could differ, and the difference does not show it. -/
theorem Spec.radiometric_of_zero {i d : F32} {tar : FVal} (hi : F32.mag i = 0) (hd : F32.finite d = true)
    (hd0 : F32.mag d ≠ 0) (htar : tar.Sound) :
    Spec.radiometric .binary32 (.num i) (.num d) tar = (tar.root4 .binary32).sub .binary32 (Spec.kelvin .binary32) := by
  obtain ⟨q, hq, hq0⟩ := F32.div_of_zero hi hd0
  have hqfin := F32.finite_of_mag_eq_zero hq0
  rw [Spec.radiometric, FVal.div_num (F32.finite_of_mag_eq_zero hi) hd, hq]
  obtain rfl | ⟨t, rfl, ht⟩ := htar
  · rw [FVal.add, Numerics.op2_unspecified_right]
  · rw [FVal.add_num hqfin ht]
    by_cases ht0 : F32.mag t = 0
    · obtain ⟨z, hz, hz0⟩ := F32.add_zeros hq0 ht0
      rw [hz, FVal.root4_of_zero hz0, FVal.root4_of_zero ht0, FVal.sub_kelvin_of_zero hz0, FVal.sub_kelvin_of_zero ht0]
    · rw [F32.add_of_mag_eq_zero hq0 ht ht0]

end Sys2Proof

namespace Sys2Proof.Machine

/-! ## The frame-wide values and the pixel's own (R220 to R231) -/

theorem resram_eq_adcResolution (s : State) : resram s.cfg s.fb = Spec.adcResolution s :=
  (Nat.shiftRight_eq_div_pow _ _).symm

theorem frameVdd_eq_vdd (s : State) : frameVdd s.cfg s.cal s.fb = Spec.vdd s := by
  rw [frameVdd, resram_eq_adcResolution]
  rfl

theorem frameTa_eq_ta (s : State) : frameTa s.cfg s.cal s.fb = Spec.ta s := by
  rw [frameTa, frameVdd_eq_vdd]
  rfl

theorem frameSub_eq_sub (s : State) : frameSub s.cfg s.fb = Spec.sub s := by
  rw [frameSub, Spec.sub, bne, decide_not, beq_eq_decide]

/-- The frame-wide values as the statements name them. -/
def State.frameWide (s : State) (eps tr : FVal) : FrameValues where
  vdd := Spec.vdd s
  ta := Spec.ta s
  gain := Spec.gain s
  cpir := Spec.cpir s
  tar := Spec.tar s.cfg.num (Spec.ta s) tr eps

theorem frameValues_eq_frameWide (s : State) (eps tr : FVal) :
    frameValues s.cfg s.cal s.fb eps tr = s.frameWide eps tr := by
  rw [frameValues, frameVdd_eq_vdd, frameTa_eq_ta]
  rfl

theorem pixelIr_eq_ir (s : State) (eps tr : FVal) (p : Nat) :
    pixelIr s.cfg s.cal s.fb eps (s.frameWide eps tr) p = Spec.ir s eps p := by
  rw [pixelIr, frameSub_eq_sub]
  rfl

theorem pixelAc_eq_ac (s : State) (eps tr : FVal) (p : Nat) :
    pixelAc s.cfg.num s.cal (s.frameWide eps tr) p = Spec.ac s p := rfl

theorem firstPass_eq_to1 (s : State) (eps tr : FVal) (p : Nat) :
    firstPass s.cfg s.cal (Spec.ir s eps p) (Spec.ac s p) (Spec.tar s.cfg.num (Spec.ta s) tr eps) =
      Spec.to1 s eps tr p := rfl

/-- The temperature CALCTO gives pixel p (R234, R235). -/
def State.temperature (s : State) (eps tr : FVal) (p : Nat) : FVal :=
  secondPass s.cfg s.cal (Spec.ir s eps p) (Spec.ac s p) (Spec.tar s.cfg.num (Spec.ta s) tr eps) (Spec.to1 s eps tr p)

theorem pixelTemp_eq_temperature (s : State) (eps tr : FVal) (p : Nat) :
    pixelTemp s.cfg s.cal s.fb eps (s.frameWide eps tr) p = s.temperature eps tr p := by
  rw [pixelTemp, pixelIr_eq_ir, pixelAc_eq_ac]
  exact congrArg (secondPass _ _ _ _ _) (firstPass_eq_to1 s eps tr p)

theorem val_read_frameTemps (s : State) (eps tr : FVal) (free : Nat → F32) {p : Nat} (hp : p < 192) :
    ((frameTemps s.cfg s.cal s.fb eps tr free).read p).val = s.temperature eps tr p := by
  rw [frameTemps, frameValues_eq_frameWide]
  exact (val_read_ofFn_toWord _ _ hp).trans (pixelTemp_eq_temperature s eps tr p)

/-! ## The range (R234) -/

/-- r is the least range from k on whose upper threshold is above x, or the last where none is. -/
structure IsLeastFrom (n : Numerics) (ct : Memory CalVal) (x : FVal) (k last r : Nat) : Prop where
  ge : k ≤ r
  le : r ≤ last
  below : ∀ j, k ≤ j → j < r → x.ltCal n (ct.read (j + 1)) = some false
  above : r < last → x.ltCal n (ct.read (r + 1)) = some true

section

variable {n : Numerics} {ct : Memory CalVal} {x : FVal} {k last r : Nat}

theorem isLeastFrom_last : IsLeastFrom n ct x last last r ↔ last = r :=
  ⟨fun h => Nat.le_antisymm h.ge h.le, fun h => h ▸ ⟨le_rfl, le_rfl, fun _ _ _ => by omega, fun _ => by omega⟩⟩

/-- The comparison with range k's threshold ends the search, or leaves it to the ranges above. -/
theorem isLeastFrom_iff (hk : k < last) :
    IsLeastFrom n ct x k last r ↔
      (x.ltCal n (ct.read (k + 1)) = some true ∧ k = r)
        ∨ (x.ltCal n (ct.read (k + 1)) = some false ∧ IsLeastFrom n ct x (k + 1) last r) := by
  constructor
  · rintro ⟨hge, hle, hbelow, habove⟩
    obtain rfl | hlt := hge.eq_or_lt
    · exact .inl ⟨habove hk, rfl⟩
    · exact .inr ⟨hbelow k le_rfl hlt, hlt, hle, fun j hj => hbelow j (Nat.le_of_succ_le hj), habove⟩
  · rintro (⟨htrue, rfl⟩ | ⟨hfalse, hge, hle, hbelow, habove⟩)
    · exact ⟨le_rfl, hk.le, fun _ _ _ => by omega, fun _ => htrue⟩
    · refine ⟨Nat.le_of_succ_le hge, hle, fun j hj hjr => ?_, habove⟩
      obtain rfl | hlt := hj.eq_or_lt
      · exact hfalse
      · exact hbelow j hlt hjr

theorem rangeFrom_eq_some_iff {m : Nat} (hlast : k + m = last) :
    rangeFrom n ct x k m = some r ↔ IsLeastFrom n ct x k last r := by
  induction m generalizing k with
  | zero =>
    obtain rfl : k = last := hlast
    rw [rangeFrom, Option.some.injEq, isLeastFrom_last]
  | succ m ih =>
    rw [rangeFrom, isLeastFrom_iff (by omega), ← ih (by omega)]
    cases x.ltCal n (ct.read (k + 1)) with
    | none => simp
    | some below => cases below <;> simp

theorem rangeOf_eq_some_iff : rangeOf n ct x = some r ↔ Spec.isRange n ct x r := by
  rw [rangeOf, rangeFrom_eq_some_iff (last := 7) rfl]
  exact ⟨fun ⟨_, hle, hbelow, habove⟩ => ⟨hle, fun j => hbelow j (Nat.zero_le j), habove⟩,
    fun ⟨hle, hbelow, habove⟩ => ⟨Nat.zero_le r, hle, fun j _ => hbelow j, habove⟩⟩

/-- Where every comparison has an outcome there is a range. -/
theorem exists_rangeFrom_eq_some {m : Nat}
    (h : ∀ j, k ≤ j → j < k + m → ∃ b, x.ltCal n (ct.read (j + 1)) = some b) : ∃ r, rangeFrom n ct x k m = some r := by
  induction m generalizing k with
  | zero => exact ⟨k, rfl⟩
  | succ m ih =>
    obtain ⟨b, hb⟩ := h k le_rfl (by omega)
    rw [rangeFrom, hb]
    cases b with
    | true => exact ⟨k, rfl⟩
    | false => exact ih fun j hj hjm => h j (Nat.le_of_succ_le hj) (by omega)

/-- A value that is one in NUM has an outcome of its comparison with an integer. -/
theorem exists_ltInt_eq_some (hx : x.checked n ≠ .unspecified) (z : Int) : ∃ b, x.ltInt n z = some b := by
  cases n with
  | custom k => exact ⟨_, if_neg hx⟩
  | binary32 =>
    cases x with
    | num x =>
      cases hfinite : F32.finite x with
      | true => exact ⟨_, if_pos hfinite⟩
      | false => simp [FVal.checked, FVal.lift1, hfinite] at hx
    | coded m => exact absurd rfl hx
    | unspecified => exact absurd rfl hx

theorem secondPass_of_isRange {c : Config} {cal : Calibration} {ir ac tar to1 : FVal}
    (h : Spec.isRange c.num cal.ct to1 r) :
    secondPass c cal ir ac tar to1 = Spec.radiometric c.num ir (den2Formula c cal ac r to1) tar := by
  rw [secondPass, rangeOf_eq_some_iff.2 h]
  rfl

end

/-! ## What AMB and CALCTO leave (R222, R225) -/

theorem State.mayCompensate_iff (s : State) : s.mayCompensate = true ↔ s.fbValid = true ∧ s.calValid = true :=
  Bool.and_eq_true_iff

theorem val_read_of_exec_calcto {eps tr : F32} {s t : State} {p : Nat} (hp : p < 192) (hf : s.faulted = false)
    (hfb : s.fbValid = true) (hcal : s.calValid = true) (h : exec (.calcto eps tr) s = .next t) :
    (t.tf.read p).val = s.temperature (.ofBits s.cfg.num eps) (.ofBits s.cfg.num tr) p := by
  rw [exec_eq_perform (i := .calcto eps tr) hf rfl (s.mayCompensate_iff.2 ⟨hfb, hcal⟩)] at h
  injection h with h
  rw [← h, State.perform, State.calculate_tf, val_read_frameTemps s _ _ _ hp]

/-! ## BPFIX (R245, R246) -/

theorem State.mayRepair_iff (s : State) : s.mayRepair = true ↔ s.tfValid = true ∧ s.calValid = true :=
  Bool.and_eq_true_iff

/-- An interior repair whose comparison has an outcome extrapolates the smoother pair. -/
theorem interiorValue_of_absGt {n : Numerics} {l2 l1 r1 r2 : FVal} {left : Bool}
    (h : (r1.sub n r2).absGt n (l1.sub n l2) = some left) :
    interiorValue n l2 l1 r1 r2 = if left then l1.add n (l1.sub n l2) else r1.add n (r1.sub n r2) := by
  rw [interiorValue, h]
  cases left <;> rfl

theorem repairs_repairValue (n : Numerics) (tf : Memory FWord) (i : Nat) (free : F32) :
    Spec.repairs n tf.read i (repairValue n tf i free) := by
  unfold Spec.repairs repairValue Config.rowW
  dsimp only
  split
  · rfl
  split
  · rfl
  split
  · exact FVal.val_toWord _ _
  · exact fun left hleft => (FVal.val_toWord _ _).trans (interiorValue_of_absGt hleft)

/-- One repair writes its pixel and no other. -/
theorem repairPixel_repairs {tf : Memory FWord} (hwf : tf.wf = true) (n : Numerics) (i : Nat) (free : F32) :
    (repairPixel n tf i free).wf = true
      ∧ (∀ p, p ≠ i → (repairPixel n tf i free).read p = tf.read p)
      ∧ Spec.repairs n tf.read i ((repairPixel n tf i free).read i) := by
  refine ⟨Memory.wf_write hwf, fun p hp => ?_, ?_⟩ <;> rw [repairPixel, Memory.read_write hwf]
  · rw [if_neg hp.symm]
  · rw [if_pos rfl]
    exact repairs_repairValue n tf i free

/-! ## The chained ratios (R236) -/

theorem acorrFormula_one_add {c : Config} (h : c.fAcorr = .printed) (cal : Calibration) (m : Nat) :
    acorrFormula c cal (1 + m) = acorrUp c.num cal m := by
  rw [acorrFormula, h]
  exact (if_pos (Nat.le_add_right _ _)).trans (congrArg _ (Nat.add_sub_cancel_left 1 m))

theorem acorrFormula_zero {c : Config} (h : c.fAcorr = .printed) (cal : Calibration) :
    acorrFormula c cal 0 = acorrDown c.num cal 1 := by
  rw [acorrFormula, h]
  rfl

/-! ## What the printed sub-formulas read of CAL (R233) -/

/-- Every sub-formula that takes CAL is the printed default (log 5); F_SX takes none. -/
structure PrintedFormulas (c : Config) : Prop where
  vdd : c.fVdd = .printed
  ta : c.fTa = .printed
  cpOff : c.fCpOff = .printed
  pixOff : c.fPixOff = .printed
  den2 : c.fDen2 = .printed
  acorr : c.fAcorr = .printed

/-- CAL with other pixel tables. -/
abbrev withTables (cal : Calibration) (alpha kta kv : Memory FWord) (offset0 offset1 : Memory Int) : Calibration :=
  { cal with alpha := alpha, kta := kta, kv := kv, offset0 := offset0, offset1 := offset1 }

section

variable {c : Config} {cal : Calibration} {alpha kta kv : Memory FWord} {offset0 offset1 : Memory Int}

theorem acorrUp_withTables (n : Numerics) (m : Nat) :
    acorrUp n (withTables cal alpha kta kv offset0 offset1) m = acorrUp n cal m := by
  induction m with
  | zero => rfl
  | succ m ih => rw [acorrUp, ih]; rfl

theorem acorrDown_withTables (n : Numerics) (m : Nat) :
    acorrDown n (withTables cal alpha kta kv offset0 offset1) m = acorrDown n cal m := by
  induction m with
  | zero => rfl
  | succ m ih => rw [acorrDown, ih]; rfl

theorem acorrFormula_withTables (h : c.fAcorr = .printed) (r : Nat) :
    acorrFormula c (withTables cal alpha kta kv offset0 offset1) r = acorrFormula c cal r := by
  rw [acorrFormula, acorrFormula, h]
  dsimp only
  rw [acorrUp_withTables, acorrDown_withTables]

theorem vddFormula_withTables (h : c.fVdd = .printed) (raw : Int) (res : Nat) :
    vddFormula c (withTables cal alpha kta kv offset0 offset1) raw res = vddFormula c cal raw res := by
  rw [vddFormula, vddFormula, h]

theorem taFormula_withTables (h : c.fTa = .printed) (ptat ptatart : Int) (vdd : FVal) :
    taFormula c (withTables cal alpha kta kv offset0 offset1) ptat ptatart vdd = taFormula c cal ptat ptatart vdd := by
  rw [taFormula, taFormula, h]

theorem cpOffFormula_withTables (h : c.fCpOff = .printed) (ta vdd : FVal) :
    cpOffFormula c (withTables cal alpha kta kv offset0 offset1) ta vdd = cpOffFormula c cal ta vdd := by
  rw [cpOffFormula, cpOffFormula, h]

/-- F_PIXOFF reads its own pixel's entries only. -/
theorem pixOffFormula_withTables (h : c.fPixOff = .printed) {p : Nat} (hkta : kta.read p = cal.kta.read p)
    (hkv : kv.read p = cal.kv.read p) (h0 : offset0.read p = cal.offset0.read p)
    (h1 : offset1.read p = cal.offset1.read p) (sub : Bool) (ta vdd : FVal) :
    pixOffFormula c (withTables cal alpha kta kv offset0 offset1) p sub ta vdd = pixOffFormula c cal p sub ta vdd := by
  rw [pixOffFormula, pixOffFormula, h]
  dsimp only
  rw [offsetOf, offsetOf, hkta, hkv, h0, h1]

theorem den2Formula_withTables (h : c.fDen2 = .printed) (h' : c.fAcorr = .printed) (ac : FVal) (r : Nat) (to1 : FVal) :
    den2Formula c (withTables cal alpha kta kv offset0 offset1) ac r to1 = den2Formula c cal ac r to1 := by
  rw [den2Formula, den2Formula, h]
  dsimp only
  rw [acorrFormula_withTables h']
  rfl

end

/-! ## Pixel by pixel (R233) -/

/-- Two states whose frames agree on pixel p, the auxiliary words and the trailer, and whose CAL agrees but in other
pixels' entries (R233). -/
structure AgreesOnPixel (p : Nat) (s s' : State) : Prop where
  cfg : s'.cfg = s.cfg
  cal : s'.cal = withTables s.cal s'.cal.alpha s'.cal.kta s'.cal.kv s'.cal.offset0 s'.cal.offset1
  alpha : s'.cal.alpha.read p = s.cal.alpha.read p
  kta : s'.cal.kta.read p = s.cal.kta.read p
  kv : s'.cal.kv.read p = s.cal.kv.read p
  offset0 : s'.cal.offset0.read p = s.cal.offset0.read p
  offset1 : s'.cal.offset1.read p = s.cal.offset1.read p
  pixel : s'.fb.read p = s.fb.read p
  auxiliary : ∀ k : Fin 48, s'.fb.read (192 + k) = s.fb.read (192 + k)
  control : s'.fb.read s.cfg.trailerBase = s.fb.read s.cfg.trailerBase
  subpage : s'.fb.read (s.cfg.trailerBase + 1) = s.fb.read (s.cfg.trailerBase + 1)

namespace AgreesOnPixel

variable {p : Nat} {s s' : State}

theorem vdd_eq (h : AgreesOnPixel p s s') (hc : PrintedFormulas s.cfg) : Spec.vdd s' = Spec.vdd s := by
  rw [Spec.vdd, Spec.adcResolution, h.cfg, h.cal, vddFormula_withTables hc.vdd, h.control, Config.atVdd, h.auxiliary]
  rfl

theorem ta_eq (h : AgreesOnPixel p s s') (hc : PrintedFormulas s.cfg) : Spec.ta s' = Spec.ta s := by
  rw [Spec.ta, h.vdd_eq hc, h.cfg, h.cal, taFormula_withTables hc.ta, Config.atPtat, Config.atPtatArt, h.auxiliary,
    h.auxiliary]
  rfl

theorem count_eq (h : AgreesOnPixel p s s') {i : Nat} (hi : s'.fb.read i = s.fb.read i) :
    Spec.count s' i = Spec.count s i := by
  rw [Spec.count, hi, h.cfg]
  rfl

theorem gain_eq (h : AgreesOnPixel p s s') : Spec.gain s' = Spec.gain s := by
  rw [Spec.gain, h.count_eq (by rw [h.cfg]; exact h.auxiliary _), h.cfg, h.cal]
  rfl

theorem cpir_eq (h : AgreesOnPixel p s s') (hc : PrintedFormulas s.cfg) : Spec.cpir s' = Spec.cpir s := by
  rw [Spec.cpir, h.count_eq (by rw [h.cfg]; exact h.auxiliary _), h.gain_eq, h.ta_eq hc, h.vdd_eq hc, h.cfg, h.cal,
    cpOffFormula_withTables hc.cpOff]
  rfl

theorem ir_eq (h : AgreesOnPixel p s s') (hc : PrintedFormulas s.cfg) (eps : FVal) :
    Spec.ir s' eps p = Spec.ir s eps p := by
  rw [Spec.ir, h.count_eq h.pixel, h.gain_eq, h.cpir_eq hc, h.ta_eq hc, h.vdd_eq hc, Spec.sub, h.cfg, h.subpage, h.cal,
    pixOffFormula_withTables hc.pixOff h.kta h.kv h.offset0 h.offset1]
  rfl

theorem ac_eq (h : AgreesOnPixel p s s') (hc : PrintedFormulas s.cfg) : Spec.ac s' p = Spec.ac s p := by
  rw [Spec.ac, h.ta_eq hc, h.alpha, h.cfg, h.cal]
  rfl

theorem to1_eq (h : AgreesOnPixel p s s') (hc : PrintedFormulas s.cfg) (eps tr : FVal) :
    Spec.to1 s' eps tr p = Spec.to1 s eps tr p := by
  rw [Spec.to1, Spec.den1, h.ir_eq hc, h.ac_eq hc, h.ta_eq hc, h.cfg, h.cal]
  rfl

theorem temperature_eq (h : AgreesOnPixel p s s') (hc : PrintedFormulas s.cfg) (eps tr : FVal) :
    s'.temperature eps tr p = s.temperature eps tr p := by
  rw [State.temperature, State.temperature, h.to1_eq hc, h.ir_eq hc, h.ac_eq hc, h.ta_eq hc, h.cfg, h.cal, secondPass,
    secondPass]
  simp only [den2Formula_withTables hc.den2 hc.acorr]

end AgreesOnPixel

/-! ## The denominators in the default NUM (R231, R235) -/

theorem den1_sound {s : State} (h : s.cfg.num = .binary32) (eps tr : FVal) (p : Nat) : (Spec.den1 s eps tr p).Sound := by
  rw [Spec.den1, h]
  exact FVal.add_sound _ _

theorem den2Formula_sound {c : Config} (h : c.num = .binary32) (cal : Calibration) (ac : FVal) (r : Nat) (to1 : FVal) :
    (den2Formula c cal ac r to1).Sound := by
  rw [den2Formula, h]
  split
  · exact FVal.mul_sound _ _
  · exact FVal.checked_sound _

end Sys2Proof.Machine

namespace Sys2Proof

open Machine

/-! ## The statements -/

/-- Settles O34: AMB stores the ambient temperature of the frame in FB. -/
theorem ambComputesAmbient : Obligations.AmbComputesAmbient := by
  intro s hf
  refine checked_of_perform hf (iff_of_true rfl trivial) s.mayCompensate_iff fun _ h => ⟨_, h, ?_⟩
  rw [State.setAmbient_ta, FVal.val_toWord, frameTa_eq_ta]

/-- Settles O35: the printed choice of each formula, its literals written out. -/
theorem defaultAmbientFormulas : Obligations.DefaultAmbientFormulas := by
  rintro c n cal vddraw ptat ptatart res vdd rfl
  refine ⟨fun h => ?_, fun h => ?_⟩
  · rw [vddFormula, h]
    rfl
  · rw [taFormula, h]
    rfl

/-- Settles O60: the printed choice of each formula, its literals written out. -/
theorem defaultPixelFormulas : Obligations.DefaultPixelFormulas := by
  rintro c n cal p r sub ta vdd ac ir tar k1 to1 rfl
  refine ⟨fun h => ?_, fun h => ?_, fun h => ?_, fun h => ?_⟩
  · rw [cpOffFormula, h]
    rfl
  · rw [pixOffFormula, h]
    rfl
  · rw [sxFormula, h]
  · rw [den2Formula, h]
    rfl

/-- Settles O38: the search is the least range above, and with integer thresholds each comparison has an outcome. -/
theorem rangeIsLeastAbove : Obligations.RangeIsLeastAbove := by
  refine fun n ct x => ⟨fun r => rangeOf_eq_some_iff, fun hx hct => exists_rangeFrom_eq_some fun j _ hj => ?_⟩
  obtain ⟨z, hz⟩ := hct (j + 1) (Nat.le_add_left 1 j) (show j < 7 from hj)
  rw [hz]
  exact exists_ltInt_eq_some hx z

/-- Settles O36: TF reads as `State.temperature`, which in the range of the first pass is the quartic law. -/
theorem calctoComputesTemperatures : Obligations.CalctoComputesTemperatures := by
  rintro eps tr s n rfl hf
  refine checked_of_perform hf (iff_of_true rfl trivial) s.mayCompensate_iff fun _ h => ⟨_, _, h, ?_, fun p r hp hr => ?_⟩
  · rw [State.setAmbient_ta, FVal.val_toWord, frameTa_eq_ta]
  · exact (val_read_frameTemps s _ _ _ hp).trans (secondPass_of_isRange hr)

/-- Settles O37: two states that agree on pixel p give it the same `State.temperature`. -/
theorem pixelsAreIndependent : Obligations.PixelsAreIndependent := by
  rintro eps tr p s s' t t' alpha kta kv offset0 offset1 hp hf hf' hfb hfb' hcal hcal' hcfg hvdd hta hcpOff hpixOff -
    hden2 hacorr hcaleq halpha hkta hkv h0 h1 hread ht ht'
  have hagree : AgreesOnPixel p s s' := by
    refine ⟨hcfg, ?_, ?_, ?_, ?_, ?_, ?_, hread p (.inl rfl), fun k => hread _ (.inr (.inl (by omega))),
      hread _ (.inr (.inr (.inl rfl))), hread _ (.inr (.inr (.inr rfl)))⟩ <;> rw [hcaleq]
    exacts [halpha, hkta, hkv, h0, h1]
  rw [val_read_of_exec_calcto hp hf' hfb' hcal' ht', val_read_of_exec_calcto hp hf hfb hcal ht, hcfg,
    hagree.temperature_eq ⟨hvdd, hta, hcpOff, hpixOff, hden2, hacorr⟩]

/-- Settles O39: both passes are the quartic law without net signal, the second in the range of the first. -/
theorem baselineTemperature : Obligations.BaselineTemperature := by
  rintro eps tr s t n p r i d1 d2 rfl hnum hp hf hfb hcal hexec hir hi hden1 hd1 hrange hden2 hd2
  have hfinite1 : F32.finite d1 = true := FVal.Sound.finite (hden1 ▸ den1_sound hnum _ _ p)
  have hfinite2 : F32.finite d2 = true := FVal.Sound.finite (hden2 ▸ den2Formula_sound hnum _ _ r _)
  constructor
  · rw [Spec.to1, hir, hden1, hnum]
    exact Spec.radiometric_of_zero hi hfinite1 hd1 (FVal.sub_sound _ _)
  · rw [val_read_of_exec_calcto hp hf hfb hcal hexec, hnum, State.temperature, secondPass_of_isRange (by rwa [hnum]),
      hir, hden2, hnum]
    exact Spec.radiometric_of_zero hi hfinite2 hd2 (FVal.sub_sound _ _)

/-- Settles O40: upwards from range 1 by `acorrUp`, one range down by `acorrDown`. -/
theorem chainedRatios : Obligations.ChainedRatios := by
  rintro c n cal rfl h
  refine ⟨acorrFormula_one_add h cal 0, fun r hr _ => ?_, ?_⟩
  · obtain ⟨m, rfl⟩ := Nat.exists_eq_add_of_le hr
    rw [acorrFormula_one_add h, Nat.add_assoc, acorrFormula_one_add h]
    rfl
  · rw [acorrFormula_zero h, acorrFormula_one_add h cal 0]
    rfl

/-- Settles O41: each repair by `repairPixel_repairs`, the second made in the frame the first leaves. -/
theorem bpfixRepairsInOrder : Obligations.BpfixRepairsInOrder := by
  intro s hf hwf
  refine checked_of_perform hf (iff_of_true rfl trivial) s.mayRepair_iff fun _ h => ?_
  obtain ⟨hwf0, hother0, hrepairs0⟩ := repairPixel_repairs hwf s.cfg.num s.cal.broken0.toNat (s.free 0)
  obtain ⟨hwf1, hother1, hrepairs1⟩ := repairPixel_repairs hwf0 s.cfg.num s.cal.broken1.toNat (s.free 1)
  refine ⟨repairFrame s.cfg.num s.cal s.tf s.free, h, ?_⟩
  unfold repairFrame Config.sentinel
  split
  · next hb0 => exact ⟨hwf, fun _ _ => rfl, fun hne => absurd hb0 hne⟩
  · next hb0 =>
    split
    · next hb1 =>
      exact ⟨hwf0, fun he => absurd he hb0, fun _ => ⟨_, hother0, hrepairs0, fun _ _ => rfl, fun hne => absurd hb1 hne⟩⟩
    · next hb1 =>
      exact ⟨hwf1, fun he => absurd he hb0,
        fun _ => ⟨_, hother0, hrepairs0, fun he => absurd he hb1, fun _ => ⟨hother1, hrepairs1⟩⟩⟩

end Sys2Proof
end

section
/-! The facade (O42, O43, O45 to O49). Each facade command is unit commands run one after the other: where the checks of
a unit command pass, its pseudocode is a stage of the facade's own. What each stage of INIT meets decides where INIT
ends (`State.initialise_of_answered` and the lemmas after it); where the transport answers every request ok the stages are
evaluated (`State.dumped_of_ok`, `State.runCfg_of_ok`). -/

namespace Sys2Proof.Machine

/-! ## The checks of the facade's commands (R291, R293) -/

/-- The checks of a command that is always legal, then its pseudocode where its row of R291 holds. -/
theorem checked_of_admitted {i : Instr} {s : State} {pre effect : Prop} (hf : s.faulted = false) (hwf : i.wf = true)
    (hpre : s.admits i = true ↔ pre) (heffect : pre → exec i s = .next (s.perform i) → effect) :
    Spec.checked i s True pre effect := by
  obtain ⟨hillegal, hrefused, hperform⟩ := checked_of_perform (effect := exec i s = .next (s.perform i)) hf
    (iff_of_true hwf trivial) hpre fun _ h => h
  exact ⟨hillegal, hrefused, fun hl hp => heffect hp (hperform hl hp)⟩

theorem State.mayInit_iff (s : State) : s.mayInit = true ↔ s.inited = false ∧ s.calValid = false := by
  simp [State.mayInit]

theorem State.mayCalculate_iff (s : State) :
    s.mayCalculate = true ↔ s.calValid = true ∧ s.fbValid = true ∧ s.taValid = true := by
  simp [State.mayCalculate, and_assoc]

/-! ## INIT by what its stages meet (R262) -/

section
variable {s : State} {ws : List Word}

/-- INIT whose bus init is answered goes on to the dump. -/
theorem State.initialise_of_answered (h : s.wordsAnswered 0 = some ws) :
    s.initialise = if s.dumped.status = .ok then s.dumped.initScan else s.dumped := by
  rw [State.initialise, State.busInit, h]
  rfl

/-- A failed dump ends INIT. -/
theorem State.initialise_of_not_dumped (h : s.wordsAnswered 0 = some ws) (hdump : s.dumped.status ≠ .ok) :
    s.initialise = s.dumped :=
  (State.initialise_of_answered h).trans (if_neg hdump)

/-- An uncorrectable word ends INIT (R264). -/
theorem State.initialise_of_uncorrectable (h : s.wordsAnswered 0 = some ws) (hdump : s.dumped.status = .ok)
    (hscan : s.dumped.scan.eccst = .uncorrectable) : s.initialise = s.dumped.scan.raise .uncorrectableError :=
  (State.initialise_of_answered h).trans ((if_pos hdump).trans (if_pos hscan))

/-- A decoded image is extracted; what CALX raises ends INIT, and CFG_SEQ follows otherwise (R265, R266). -/
theorem State.initialise_of_decoded (h : s.wordsAnswered 0 = some ws) (hdump : s.dumped.status = .ok)
    (hscan : s.dumped.scan.eccst ≠ .uncorrectable) :
    s.initialise = if s.prepared.extract.status = .ok then s.prepared.extract.configure else s.prepared.extract :=
  (State.initialise_of_answered h).trans ((if_pos hdump).trans (if_neg hscan))

/-- INIT whose every stage up to the extraction succeeds comes to CFG_SEQ (R266). -/
theorem State.initialise_of_extracted (h : s.wordsAnswered 0 = some ws) (hdump : s.dumped.status = .ok)
    (hscan : s.dumped.scan.eccst ≠ .uncorrectable) (hcalx : calxFailure s.prepared.cfg s.prepared.ee = none) :
    s.initialise = s.prepared.commitCal.configure := by
  rw [State.initialise_of_decoded h hdump hscan, State.extract, hcalx]
  exact if_pos rfl

/-- A scan that ends with an uncorrectable word already has the status INIT raises. -/
theorem State.raise_uncorrectable_scan (h : s.scan.eccst = .uncorrectable) :
    s.scan.raise .uncorrectableError = { s.scan with fs := .idle } := by
  have hstatus : s.scan.status = .uncorrectableError := by
    rw [State.scan_status, ← State.scan_eccst, h]
    rfl
  simp only [State.raise, hstatus, Status.contract, Bool.or_false]

end

/-! ## The unit commands INIT runs are accepted (R291) -/

section
variable {s : State}

theorem State.eeState_capture_of_ok (h : s.capture.status = .ok) : s.capture.eeState = .raw := by
  obtain ⟨-, hs⟩ | ⟨ws, -, -, hs⟩ := s.capture_cases <;> rw [hs] at h ⊢
  nomatch h

theorem exec_eeld_asked (hf : s.faulted = false) (hcal : s.calValid = false) :
    exec .eeld (s.asked (.init s.cfg.freqKhz)) = .next s.dumped := by
  refine exec_eq_perform (i := .eeld) hf rfl ?_
  simp [State.admits, State.mayLoad, hcal]

theorem exec_eccs_dumped (hf : s.faulted = false) (hok : s.dumped.status = .ok) :
    exec .eccs s.dumped = .next s.dumped.scan :=
  exec_eq_perform (i := .eccs) ((s.keeps_dumped .fault (by simp)).trans hf) rfl
    ((mayScan_iff _).2 (State.eeState_capture_of_ok hok))

theorem exec_calx_prepared (hf : s.faulted = false) (hcal : s.calValid = false) :
    exec .calx s.prepared = .next s.prepared.extract :=
  exec_calx_of_accepted ⟨(s.keeps_prepared .fault (by simp)).trans hf, .inr s.dumped.scan_eeState,
    (s.keeps_prepared .cal (by simp)).2.trans hcal⟩

theorem State.cfg_prepared_extract (s : State) : s.prepared.extract.cfg = s.cfg :=
  (s.prepared.keeps_extract .fixed (by simp)).2.1.trans (s.keeps_prepared .fixed (by simp)).2.1

end

/-! ## INIT where the transport answers ok (R264, R266) -/

section
variable {s : State} {more : List BusAnswer}

theorem State.answered_answered (s : State) (qs rs : List BusReq) (m m' : List BusAnswer) :
    (s.answered qs m).answered rs m' = s.answered (rs ++ qs) m' := by
  simp [State.answered]

/-- The state once a request has used the next answer. -/
theorem State.asked_of_script {a : BusAnswer} (hs : s.script = a :: more) (q : BusReq) :
    s.asked q = s.answered [q] more := by
  rw [State.asked, hs]
  rfl

/-- A capture that is answered with the whole image (R190). -/
theorem State.capture_of_ok {ws : List Word} (hs : s.script = .ok ws :: more) (hlen : ws.length = 832) :
    s.capture = { s.answered [.read s.cfg.sa s.cfg.eeAddr 832] more with
      ee := Memory.ofList ws, eeState := .raw, eccst := .clean, status := .ok } := by
  have hwords : s.wordsAnswered 832 = some ws := by
    rw [State.wordsAnswered_ok hs hlen.ge, List.take_of_length_le hlen.le]
  obtain ⟨hnone, -⟩ | ⟨ws', hws', -, hcapture⟩ := s.capture_cases
  · nomatch hnone.symm.trans hwords
  · obtain rfl : ws' = ws := Option.some.inj (hws'.symm.trans hwords)
    rw [hcapture, State.asked_of_script hs]

/-- INIT's dump where both its requests are answered (R262). -/
theorem State.dumped_of_ok {ws : List Word} (hs : s.script = .ok [] :: .ok ws :: more) (hlen : ws.length = 832) :
    s.dumped = { s.answered [.read s.cfg.sa s.cfg.eeAddr 832, .init s.cfg.freqKhz] more with
      ee := Memory.ofList ws, eeState := .raw, eccst := .clean, status := .ok } := by
  rw [State.dumped, State.asked_of_script hs]
  exact State.capture_of_ok rfl hlen

/-- The scan of that dump, and the note of a corrected word (R264). -/
theorem State.prepared_of_ok {ws : List Word} (hs : s.script = .ok [] :: .ok ws :: more) (hlen : ws.length = 832) :
    s.prepared = { s.answered [.read s.cfg.sa s.cfg.eeAddr 832, .init s.cfg.freqKhz] more with
      ee := scanImage s.cfg (Memory.ofList ws), eeState := .decoded, eccst := scanWorst s.cfg (Memory.ofList ws)
      wEcc := s.wEcc || decide (scanWorst s.cfg (Memory.ofList ws) = .corrected)
      status := (scanWorst s.cfg (Memory.ofList ws)).status } := by
  rw [State.prepared, State.dumped_of_ok hs hlen]
  rfl

/-- The requests of one step of CFG_SEQ whose read gives the word, oldest first. -/
def cfgStepRequests (c : Config) (step : Rmw × Word) : List BusReq :=
  [.read c.sa step.1.reg 1, .write c.sa step.1.reg (Spec.rmwValue step.1 step.2)]

/-- A step of CFG_SEQ whose read and write are answered (R266). -/
theorem State.runCfg_cons_of_ok {v : Word} (hs : s.script = .ok [v] :: .ok [] :: more) (m : Rmw) (rest : List Rmw) :
    State.runCfg (m :: rest) s = State.runCfg rest (s.answered (cfgStepRequests s.cfg (m, v)).reverse more) := by
  have hread : s.wordsAnswered 1 = some [v] := State.wordsAnswered_ok hs le_rfl
  have hwrite : (s.answered [.read s.cfg.sa m.reg 1] (.ok [] :: more)).wordsAnswered 0 = some [] :=
    State.wordsAnswered_ok rfl le_rfl
  rw [State.runCfg, State.busRead, hread, State.asked_of_script hs]
  dsimp only [State.busWrite]
  rw [hwrite]
  rfl

/-- CFG_SEQ whose every step is answered issues its requests and changes nothing else (R266). -/
theorem State.runCfg_of_ok {l : List Rmw} {vs : List Word} (hlen : vs.length = l.length)
    (hs : s.script = Spec.cfgAnswers vs ++ more) :
    State.runCfg l s = s.answered ((l.zip vs).flatMap (cfgStepRequests s.cfg)).reverse more := by
  induction l generalizing s vs with
  | nil =>
    obtain rfl := List.eq_nil_of_length_eq_zero hlen
    obtain rfl : s.script = more := hs
    rfl
  | cons m rest ih =>
    obtain ⟨v, vs, rfl⟩ := List.exists_cons_of_length_eq_add_one hlen
    rw [State.runCfg_cons_of_ok hs, ih (Nat.succ.inj hlen) rfl, State.answered_answered, List.zip_cons_cons,
      List.flatMap_cons, List.reverse_append]
    rfl

/-- The end of INIT where every step of CFG_SEQ is answered. -/
theorem State.configure_of_ok {vs : List Word} (hlen : vs.length = s.cfg.cfgSeq.length)
    (hs : s.script = Spec.cfgAnswers vs ++ more) :
    s.configure = { s.answered (Spec.cfgRequests s.cfg vs).reverse more with inited := true, status := .ok } := by
  rw [State.configure, State.runCfg_of_ok hlen hs]
  rfl

/-- INIT whose every request is answered, on an image without an uncorrectable word that CALX accepts (R262). -/
theorem State.initialise_of_ok {ws vs : List Word} (hs : s.script = .ok [] :: .ok ws :: (Spec.cfgAnswers vs ++ more))
    (hlen : ws.length = 832) (hvs : vs.length = s.cfg.cfgSeq.length)
    (hscan : scanWorst s.cfg (Memory.ofList ws) ≠ .uncorrectable)
    (hcalx : calxFailure s.cfg (scanImage s.cfg (Memory.ofList ws)) = none) :
    s.initialise = { s.answered
        (.init s.cfg.freqKhz :: .read s.cfg.sa s.cfg.eeAddr 832 :: Spec.cfgRequests s.cfg vs).reverse more with
      ee := scanImage s.cfg (Memory.ofList ws), eeState := .decoded, eccst := scanWorst s.cfg (Memory.ofList ws)
      wEcc := s.wEcc || decide (scanWorst s.cfg (Memory.ofList ws) = .corrected)
      cal := extractAll s.cfg (scanImage s.cfg (Memory.ofList ws)) s.draws, calValid := true
      draws := s.draws + calxDraws, inited := true, status := .ok } := by
  have hdumped := State.dumped_of_ok hs hlen
  have hprepared := State.prepared_of_ok hs hlen
  have hscan' : s.dumped.scan.eccst ≠ .uncorrectable := by rwa [State.scan_eccst, hdumped]
  have hcalx' : calxFailure s.prepared.cfg s.prepared.ee = none := by rwa [hprepared]
  rw [State.initialise_of_extracted (State.wordsAnswered_ok hs le_rfl) (by rw [hdumped]) hscan' hcalx', hprepared]
  refine Eq.trans (State.configure_of_ok (vs := vs) (more := more) hvs rfl) ?_
  simp [State.answered, State.commitCal]

end

/-! ## RDFRAME (R268) -/

theorem State.readFrame_of_ok {s : State} (h : s.acquire.status = .ok) : s.readFrame = s.acquire.ambient := if_pos h

theorem State.readFrame_of_failed {s : State} (h : s.acquire.status ≠ .ok) : s.readFrame = s.acquire := if_neg h

/-- An acquisition has set FB_VALID exactly when it ended OK. -/
theorem State.fbValid_acquire_iff (s : State) : s.acquire.fbValid = true ↔ s.acquire.status = .ok := by
  obtain ⟨hok, hvalid⟩ | ⟨hfailed, hinvalid⟩ := s.progress_acquire.concluded s.acquire_ends.2
  · exact iff_of_true hvalid hok
  · refine iff_of_false (by simp [hinvalid]) ?_
    obtain h | h := hfailed <;> rw [h] <;> nofun

/-- After an acquisition that ended OK, AMB is accepted (R291). -/
theorem exec_amb_acquire {s : State} (hf : s.faulted = false) (hcal : s.calValid = true)
    (hok : s.acquire.status = .ok) : exec .amb s.acquire = .next s.acquire.ambient :=
  exec_eq_perform (i := .amb) ((s.keeps_acquire .fault (by simp)).trans hf) rfl
    ((State.mayCompensate_iff _).2 ⟨s.fbValid_acquire_iff.2 hok, (s.keeps_acquire .cal (by simp)).2.trans hcal⟩)

/-! ## CALCT (R270) -/

/-- CALCT's pseudocode where EMIS and TA hold binary32 values: CALCTO with those operands, then BPFIX. -/
theorem State.perform_calct_of_num {s : State} {e t : F32} (he : s.emis = .num e) (ht : s.ta = .num t) :
    s.perform .calct = (s.perform (.calcto e t)).repair := by
  show s.calculateTemps = _
  rw [State.calculateTemps, he, ht]
  rfl

/-- After a CALCTO that has run, BPFIX is accepted (R291). -/
theorem exec_bpfix_calcto {s : State} (hf : s.faulted = false) (hcal : s.calValid = true) (e t : F32) :
    exec .bpfix (s.perform (.calcto e t)) = .next (s.perform (.calcto e t)).repair :=
  exec_eq_perform (i := .bpfix) hf rfl ((State.mayRepair_iff _).2 ⟨State.calculate_tfValid .., hcal⟩)

/-! ## GETT (R272) -/

theorem State.perform_gett_of_le {s : State} {i : Word} (hi : i.toNat ≤ 191) :
    s.perform (.gett i) = (s.setFr (s.tf.read i.toNat)).done :=
  if_pos (Nat.lt_succ_of_le hi)

theorem State.perform_gett_of_lt {s : State} {i : Word} (hi : 191 < i.toNat) :
    s.perform (.gett i) = s.refuse .badOperand :=
  if_neg (Nat.not_lt.2 hi)

end Sys2Proof.Machine

namespace Sys2Proof

open Machine

/-! ## The statements -/

/-- Settles O42: each stage of INIT is the unit command it names, which R291 accepts there. -/
theorem initIsComposed : Obligations.InitIsComposed := by
  intro s hf
  refine checked_of_admitted hf rfl s.mayInit_iff fun ⟨_, hcal⟩ h => ?_
  rw [h, State.perform]
  refine ⟨fun hnone => ?_, fun ws hws => ⟨s.dumped, exec_eeld_asked hf hcal, fun hfail => ?_, fun hok =>
    ⟨s.dumped.scan, exec_eccs_dumped hf hok, fun hscan => ?_, fun hscan =>
      ⟨s.prepared.extract, exec_calx_prepared hf hcal, fun hfail => ?_, fun hdone => ?_⟩⟩⟩⟩
  · rw [State.initialise_of_err (State.wordsAnswered_eq_none_iff.1 hnone)]
    simp only [State.raise, Status.contract, Bool.or_false]
  · rw [State.initialise_of_not_dumped hws hfail]
  · rw [State.initialise_of_uncorrectable hws hok hscan, State.raise_uncorrectable_scan hscan]
  · rw [State.initialise_of_decoded hws hok hscan, if_neg hfail]
  · rw [State.initialise_of_decoded hws hok hscan, if_pos hdone, State.configure, s.cfg_prepared_extract]

/-- Settles O43: every stage evaluated on the answers it gets, and the scan of the image that came. -/
theorem initSucceeds : Obligations.InitSucceeds := by
  intro s ws vs more hf hinited hcal hsyn hlen hvs hs hgood hcalx
  have hworst := isWorst_scanWorst s.cfg (Memory.ofList ws)
  have hinit := State.initialise_of_ok hs hlen hvs (mt hworst.1.1 hgood) hcalx
  refine ⟨_, exec_eq_perform (i := .init) hf rfl (s.mayInit_iff.2 ⟨hinited, hcal⟩), ?_⟩
  rw [State.perform, hinit]
  refine ⟨rfl, rfl, rfl, rfl, hworst, by simp, rfl, rfl, rfl, fun i hi => ?_, fun i hlo hhi => ?_⟩
  · rw [read_scanImage_unscanned (Memory.below_ofList hlen.le) (.inl hi), Memory.read_ofList,
      List.getD_eq_getElem _ _ (by omega), List.getElem?_eq_getElem (by omega)]
  · rw [read_scanImage_scanned hlo hhi, Memory.read_ofList]
    exact ⟨_, hdecGives_hdec hsyn _⟩

/-- Settles O45: an acquisition keeps TA, and has set FB_VALID exactly when it ended OK. -/
theorem rdframeIsComposed : Obligations.RdframeIsComposed := by
  intro s hf
  refine checked_of_admitted hf rfl Iff.rfl fun hcal h => ⟨s.acquire, exec_eq_perform hf rfl rfl, fun hfail => ?_,
    fun hok => ?_⟩
  · obtain ⟨hta, htaValid⟩ := s.keeps_acquire .ta (by simp)
    refine ⟨?_, hta, htaValid, Bool.eq_false_iff.2 (mt s.fbValid_acquire_iff.1 hfail)⟩
    rw [h, State.perform, State.readFrame_of_failed hfail]
  · rw [h, exec_amb_acquire hf hcal hok, State.perform, State.readFrame_of_ok hok]

/-- Settles O46: the summary of one pass, whose frame AMB then reads. -/
theorem rdframeSucceeds : Obligations.RdframeSucceeds := by
  intro s st W tail st' ctrl more hf hcal hwf hpass
  have hacquire := s.acquire_eq_acquisition.trans (acquisition_of_onePass hpass)
  have hok : s.acquire.status = .ok := by rw [hacquire]
  refine ⟨s.acquire.fb, s.acquire.ambient.ta, ?_, ?_, ?_⟩
  · rw [exec_eq_perform (i := .rdframe) hf rfl hcal, State.perform, State.readFrame_of_ok hok, hacquire]
    rfl
  · rw [hacquire]
    exact holdsFrame_frameWritten hwf hpass.windows hpass.windowWords hpass.tailWords
  · rw [State.ambient_ta, FVal.val_toWord, frameTa_eq_ta, hacquire]
    rfl

/-- Settles O47: the operands of CALCTO are the stored values, and BPFIX is accepted after it. -/
theorem calctRunsCalctoThenBpfix : Obligations.CalctRunsCalctoThenBpfix := by
  intro s hf
  refine checked_of_admitted hf rfl s.mayCalculate_iff fun ⟨hcal, hfb, _⟩ h => ⟨fun e t he ht => ?_, ?_⟩
  · have hcalcto := exec_eq_perform (i := .calcto e t) hf rfl (s.mayCompensate_iff.2 ⟨hfb, hcal⟩)
    exact ⟨_, hcalcto, by rw [h, State.perform_calct_of_num he ht, exec_bpfix_calcto hf hcal]⟩
  · refine ⟨s.calculateTemps.ta, s.calculateTemps.tf, h, ?_⟩
    rw [State.calculateTemps, State.repair_ta, State.calculate_ta, FVal.val_toWord, frameTa_eq_ta]

/-- Settles O48: the index decides between the two ends of the pseudocode. -/
theorem gettReadsTemperature : Obligations.GettReadsTemperature := by
  intro i s hf
  refine checked_of_admitted hf rfl Iff.rfl fun _ h => ⟨fun hi => ?_, fun hi => ?_⟩
  · rw [h, State.perform_gett_of_le hi]
    rfl
  · rw [h, State.perform_gett_of_lt hi]
    rfl

/-- Settles O49: the pseudocode is the state written out. -/
theorem getambReadsAmbient : Obligations.GetambReadsAmbient := fun _ hf =>
  checked_of_admitted hf rfl Iff.rfl fun _ h => h

end Sys2Proof
end

section
/-! Statuses, checks and the fault (O6 to O9, O59). A command that is not refused runs its pseudocode
(`State.perform`), and there are three facts about that: which statuses it ends with (`State.perform_status`), that an
operand outside its range is refused (`State.perform_of_badOperand`), and that FAULT goes with the status
(`State.settled_perform`). The statements put them behind the checks. -/

namespace Sys2Proof.Machine

/-! ## The checks of R293 in the statements' words -/

/-- The row of R291 that the model checks is the statements'. -/
theorem State.admits_iff (s : State) (i : Instr) : s.admits i = true ↔ i.requires s := by
  cases i with
  | xraw d => exact s.imageReadable_iff
  | xsgl sgn d => exact s.imageReadable_iff
  | xdbl sgn hi lo => exact s.imageReadable_iff
  | eccs => exact mayScan_iff s
  | calx => simp [State.admits, State.mayExtract, Instr.requires, ← s.imageReadable_iff, State.imageReadable]
  | eeld => simp [State.admits, State.mayLoad, Instr.requires]
  | amb => exact s.mayCompensate_iff
  | calcto eps tr => exact s.mayCompensate_iff
  | bpfix => exact s.mayRepair_iff
  | init => exact s.mayInit_iff
  | rdframe => exact Iff.rfl
  | calct => exact s.mayCalculate_iff
  | gett k => exact Iff.rfl
  | getamb => exact Iff.rfl
  | _ => exact iff_of_true rfl trivial

/-- The checks before the operand's, refusal by refusal, and then the pseudocode (R285, R291, R293). -/
theorem exec_checked {s : State} (hf : s.faulted = false) (i : Instr) :
    Spec.checked i s (i.wf = true) (i.requires s) (exec i s = .next (s.perform i)) :=
  checked_of_perform hf Iff.rfl (s.admits_iff i) fun _ h => h

theorem exec_of_faulted {s : State} (hf : s.faulted = true) (i : Instr) : exec i s = .next (s.refuse .halted) := by
  rw [exec_eq_command, State.command_faulted hf]

/-- Only SEXT, SCMUL and GETT have an operand to check. -/
theorem takesOperand_of_badOperand {i : Instr} {s : State} (h : Spec.badOperand i s) : Spec.takesOperand i := by
  cases i with
  | sext w => trivial
  | scmul e => trivial
  | gett k => trivial
  | _ => exact h

theorem State.perform_of_badOperand {i : Instr} {s : State} (h : Spec.badOperand i s) :
    s.perform i = s.refuse .badOperand := by
  cases i with
  | sext w => exact perform_sext_of_not_inRange fun ⟨hlo, hhi⟩ => h.elim hlo.not_gt hhi.not_ge
  | scmul e => exact perform_scmul_of_not_fits fun ⟨hlo, hhi⟩ => h.elim hlo.not_gt hhi.not_ge
  | gett k => exact State.perform_gett_of_lt h
  | _ => exact h.elim

/-- A command that no check refuses is not faulted, legal, admitted, and its operand is in range (R293). -/
theorem checks_pass {i : Instr} {s : State} (h : ∀ x, ¬ Spec.refusedWith i s x) :
    s.faulted = false ∧ i.wf = true ∧ i.requires s ∧ ¬ Spec.badOperand i s := by
  have hf : s.faulted = false := Bool.eq_false_iff.2 fun hf => h _ (.inl ⟨hf, rfl⟩)
  have hwf : i.wf = true := Bool.eq_true_of_not_eq_false fun hwf => h _ (.inr (.inl ⟨hf, hwf, rfl⟩))
  have hreq : i.requires s := not_not.1 fun hreq => h _ (.inr (.inr (.inl ⟨hf, hwf, hreq, rfl⟩)))
  exact ⟨hf, hwf, hreq, fun hbad => h _ (.inr (.inr (.inr ⟨hf, hwf, hreq, hbad, rfl⟩)))⟩

/-! ## The statuses a pseudocode ends with (R280) -/

/-- OK, or a status R280's table lists for the command. -/
def Status.Listed (i : Instr) (x : Status) : Prop := x = .ok ∨ x ∈ Spec.mayRaise i

/-- The table lists none of the four refusals. -/
theorem Status.Listed.not_refusal {i : Instr} {x : Status} (h : x.Listed i) :
    x ≠ .illegalCommand ∧ x ≠ .badState ∧ x ≠ .badOperand ∧ x ≠ .halted := by
  have hraise : ∀ x ∈ Spec.mayRaise i, x ≠ .illegalCommand ∧ x ≠ .badState ∧ x ≠ .badOperand ∧ x ≠ .halted := by
    cases i <;> simp [Spec.mayRaise]
  obtain rfl | h := h
  · simp
  · exact hraise x h

/-- The table lists a contract violation only for the commands that may set FAULT (R280, R286). -/
theorem Status.Listed.not_faulting {i : Instr} {x : Status} (hi : ¬ Spec.mayFault i) (h : x.Listed i) :
    ¬ x.faulting := by
  have hraise : ∀ x ∈ Spec.mayRaise i, ¬ x.faulting := by
    cases i with
    | xraw d => exact absurd trivial hi
    | xsgl sgn d => exact absurd trivial hi
    | xdbl sgn high low => exact absurd trivial hi
    | calx => exact absurd trivial hi
    | init => exact absurd trivial hi
    | _ => simp [Spec.mayRaise, Status.faulting]
  obtain rfl | h := h
  · simp [Status.faulting]
  · exact hraise x h

theorem State.listed_extracted {i : Instr} {s : State} {v : Option Status} {z : Int}
    (hv : ∀ x, v = some x → x ∈ Spec.mayRaise i) : (s.extracted v z).status.Listed i := by
  obtain ⟨x, hx, h⟩ | ⟨-, h⟩ := s.extracted_cases v z <;> rw [h]
  · exact .inr (hv x hx)
  · exact .inl rfl

theorem eq_addressOutOfRange_of_addressViolation {c : Config} {d : Desc} {x : Status}
    (h : addressViolation c d = some x) : x = .addressOutOfRange := by
  rw [addressViolation_eq] at h
  split at h
  · cases h
  · exact (Option.some.inj h).symm

theorem EccStatus.status_cases (e : EccStatus) :
    e.status = .ok ∨ e.status ∈ [Status.correctedError, .uncorrectableError] := by
  cases e <;> simp [EccStatus.status]

theorem State.capture_status (s : State) : s.capture.status = .ok ∨ s.capture.status = .transportError := by
  obtain ⟨-, h⟩ | ⟨ws, -, -, h⟩ := s.capture_cases <;> simp [h]

theorem calxFailure_mem {c : Config} {ee : Memory Word} {x : Status} (h : calxFailure c ee = some x) :
    x ∈ [Status.unusable, .addressOutOfRange, .fieldTooWide] := by
  simpa [Status.contract_iff] using calxFailure_eq_some h

/-- An acquisition ends OK or with one of the two statuses FRD may raise, whatever STATUS was before (R195 to R202). -/
theorem State.acquire_status (s : State) : s.acquire.status.Listed .frd := by
  obtain ⟨hok, -⟩ | ⟨hfailed, -⟩ := s.progress_acquire.concluded s.acquire_ends.2
  · exact .inl hok
  · exact .inr (by simpa [Spec.mayRaise, or_comm] using hfailed)

theorem State.initialise_status (s : State) : s.initialise.status.Listed .init := by
  obtain h | ⟨-, h⟩ | ⟨-, h⟩ | ⟨-, x, hx, h⟩ | ⟨-, -, h⟩ := s.initialise_cases <;> rw [h]
  · exact .inr (by simp [Spec.mayRaise])
  · obtain hc | hc := State.capture_status (s.asked (.init s.cfg.freqKhz)) <;> rw [State.dumped, hc]
    · exact .inl rfl
    · exact .inr (by simp [Spec.mayRaise])
  · exact .inr (by simp [Spec.mayRaise])
  · have hmem : [Status.unusable, .addressOutOfRange, .fieldTooWide] ⊆ Spec.mayRaise .init := by decide
    exact .inr (hmem (calxFailure_mem hx))
  · exact .inl rfl

/-- A pseudocode whose operand is in range ends with a status of R280's row of the command. -/
theorem State.perform_status {i : Instr} {s : State} (h : ¬ Spec.badOperand i s) : (s.perform i).status.Listed i := by
  cases i with
  | xraw d =>
    exact State.listed_extracted fun x hx => List.mem_singleton.2 (eq_addressOutOfRange_of_addressViolation hx)
  | xsgl sgn d =>
    exact State.listed_extracted fun x hx => List.mem_singleton.2 (eq_addressOutOfRange_of_addressViolation hx)
  | xdbl sgn hi lo =>
    refine State.listed_extracted fun x hx => ?_
    simpa [Spec.mayRaise] using Status.contract_iff.1 (dualViolation_contract hx)
  | sext w =>
    obtain ⟨hlo, hhi⟩ := not_or.1 h
    rw [perform_sext_of_inRange ⟨not_lt.1 hlo, not_le.1 hhi⟩]
    exact .inl rfl
  | scmul e =>
    obtain ⟨hlo, hhi⟩ := not_or.1 h
    rw [perform_scmul_of_fits ⟨not_lt.1 hlo, not_le.1 hhi⟩]
    exact .inl rfl
  | gett k =>
    rw [State.perform_gett_of_le (not_lt.1 h)]
    exact .inl rfl
  | eccw w => exact EccStatus.status_cases _
  | eccs => exact EccStatus.status_cases _
  | calx =>
    show s.extract.status.Listed .calx
    obtain ⟨x, hx, he⟩ | ⟨-, he⟩ := s.extract_cases <;> rw [he]
    · exact .inr (calxFailure_mem hx)
    · exact .inl rfl
  | eeld => exact s.capture_status.imp_right List.mem_singleton.2
  | frd => exact s.acquire_status
  | init => exact s.initialise_status
  | rdframe =>
    show s.readFrame.status.Listed .frd
    obtain ⟨-, hr⟩ | ⟨-, hr⟩ := s.readFrame_cases <;> rw [hr]
    · exact .inl rfl
    · exact s.acquire_status
  | _ => exact .inl rfl

/-! ## FAULT and the status (R286) -/

theorem State.settled_extract {s : State} (hf : s.faulted = false) : s.extract.Settled := by
  obtain ⟨x, hx, h⟩ | ⟨-, h⟩ := s.extract_cases <;> rw [h]
  · exact State.settled_raise hf (calxFailure_ne_halted hx)
  · exact .of_clear hf (by simp [Status.faulting])

/-- From FAULT = 0 the pseudocode sets FAULT exactly with a faulting status, whatever STATUS was before: a command that
may set it raises, and every other leaves FAULT alone and ends with a status that does not go with it. -/
theorem State.settled_perform {s : State} (hf : s.faulted = false) (i : Instr) : (s.perform i).Settled := by
  by_cases hbad : Spec.badOperand i s
  · rw [State.perform_of_badOperand hbad]
    exact .of_clear hf (by simp [Status.faulting])
  by_cases hi : Spec.mayFault i
  · cases i with
    | xraw d => exact State.settled_extracted hf _ fun x => addressViolation_contract
    | xsgl sgn d => exact State.settled_extracted hf _ fun x => addressViolation_contract
    | xdbl sgn hi lo => exact State.settled_extracted hf _ fun x => dualViolation_contract
    | calx => exact State.settled_extract hf
    | init => exact State.settled_initialise hf
    | _ => exact hi.elim
  · exact .of_clear ((s.keeps_perform i .fault (footprint_fault hi)).trans hf)
      ((State.perform_status hbad).not_faulting hi)

theorem State.perform_status_ne_halted (s : State) (i : Instr) : (s.perform i).status ≠ .halted := by
  by_cases hbad : Spec.badOperand i s
  · simp [State.perform_of_badOperand hbad]
  · obtain ⟨-, -, -, hhalted⟩ := (State.perform_status hbad).not_refusal
    exact hhalted

end Sys2Proof.Machine

namespace Sys2Proof

open Machine

/-- Settles O6: words that form a command and words that form none meet the same first check. -/
theorem faultedBlockIsHalted : Obligations.FaultedBlockIsHalted := by
  intro s ws more hf hcmds
  have hhalted : step s = .next (s.taken.refuse .halted) := by
    cases hdecode : decode ws with
    | error e =>
      rw [step_of_decode_error hcmds hdecode, State.answerIllegal, State.command_faulted (s := s.taken) hf]
    | ok i => rw [step_of_decode_ok hcmds hdecode, exec_of_faulted (s := s.taken) hf]
  rw [hhalted, State.taken_eq hcmds]
  rfl

/-- Settles O7: a refusal leaves FAULT alone, and a pseudocode runs from FAULT = 0 (`State.settled_perform`). -/
theorem faultFollowsContractViolation : Obligations.FaultFollowsContractViolation := by
  intro i s t h
  obtain ⟨hf, rfl⟩ | ⟨hf, x, hx, rfl⟩ | ⟨hf, -, -, rfl⟩ := exec_cases h
  · exact iff_of_true hf (.inl hf)
  · obtain rfl | rfl := hx <;> simp [hf]
  · have hsettled := State.settled_perform hf i
    have hne := s.perform_status_ne_halted i
    simpa [State.Settled, Status.faulting, hf, hne] using hsettled

/-- Settles O8: each refusal by its check, and a command that passes all four ends with a status of its row. -/
theorem refusalsInOrder : Obligations.RefusalsInOrder := by
  intro i s
  constructor
  · rintro x (⟨hf, rfl⟩ | ⟨hf, hwf, rfl⟩ | ⟨hf, hwf, hreq, rfl⟩ | ⟨hf, hwf, hreq, hbad, rfl⟩)
    · exact exec_of_faulted hf i
    · exact exec_of_not_wf hf hwf
    · obtain ⟨-, hrefused, -⟩ := exec_checked hf i
      exact hrefused hwf hreq
    · obtain ⟨-, -, hperform⟩ := exec_checked hf i
      rw [hperform hwf hreq, State.perform_of_badOperand hbad]
      rfl
  · intro h
    obtain ⟨hf, hwf, hreq, hbad⟩ := checks_pass h
    exact ⟨s.perform i, exec_eq_perform hf hwf ((s.admits_iff i).2 hreq), (State.perform_status hbad).not_refusal⟩

/-- Settles O9: a refusal ends with its own status, a pseudocode with one of its row; the codes by evaluation. -/
theorem statusesByCommand : Obligations.StatusesByCommand := by
  refine ⟨fun i s t h => ?_, rfl⟩
  obtain ⟨-, rfl⟩ | ⟨-, x, rfl | rfl, rfl⟩ | ⟨-, -, -, rfl⟩ := exec_cases h
  · simp
  · simp
  · simp
  · by_cases hbad : Spec.badOperand i s
    · simp [State.perform_of_badOperand hbad, takesOperand_of_badOperand hbad]
    · exact (State.perform_status hbad).imp_right .inl

/-- Settles O59: with no act left the step finds the block idle. -/
theorem blockWaits : Obligations.BlockWaits := by
  intro s h
  simp only [step, fetch, h]

end Sys2Proof
end
